-- ==== Sys2Proof/Word.lean ====
section
/-! DEFINITION. The byte and the 16-byte block of 00_scope.md R11 to R13. -/

namespace Sys2Proof

/-- A byte: 8 bits, bit 7 the most significant (R11). -/
abbrev Byte := BitVec 8

/-- Sixteen bytes, byte 0 first: a block, a round key or the state matrix (R7, R13, R20). -/
abbrev Block := Vector Byte 16

end Sys2Proof
end

