-- ==== Sys2Proof/Machine/Tables.lean ====
section
/-! DEFINITION. The five ROMs (10_state.md R33 to R38, R40), row by row as the spec prints them: row `a[7:4]` of a table is
one 128-bit number whose leftmost byte is column 0. -/

namespace Sys2Proof.Machine

/-- Entry `a` of a table of 16 rows: row `a[7:4]`, column `a[3:0]` (R34). -/
def romEntry (rows : List (BitVec 128)) (a : Byte) : Byte :=
  (rows.getD (a.toNat / 16) 0).extractLsb' (8 * (15 - a.toNat % 16)) 8

/-- The rows of `INV_SBOX` (R34). -/
def invSboxRows : List (BitVec 128) :=
  [0x52096ad53036a538bf40a39e81f3d7fb#128,
   0x7ce339829b2fff87348e4344c4dee9cb#128,
   0x547b9432a6c2233dee4c950b42fac34e#128,
   0x082ea16628d924b2765ba2496d8bd125#128]
  ++ [0x72f8f66486689816d4a45ccc5d65b692#128,
   0x6c704850fdedb9da5e154657a78d9d84#128,
   0x90d8ab008cbcd30af7e45805b8b34506#128,
   0xd02c1e8fca3f0f02c1afbd0301138a6b#128]
  ++ [0x3a9111414f67dcea97f2cfcef0b4e673#128,
   0x96ac7422e7ad3585e2f937e81c75df6e#128,
   0x47f11a711d29c5896fb7620eaa18be1b#128,
   0xfc563e4bc6d279209adbc0fe78cd5af4#128]
  ++ [0x1fdda8338807c731b11210592780ec5f#128,
   0x60517fa919b54a0d2de57a9f93c99cef#128,
   0xa0e03b4dae2af5b0c8ebbb3c83539961#128,
   0x172b047eba77d626e169146355210c7d#128]

/-- `INV_SBOX`, the inverse S-box (R34). -/
def invSbox (a : Byte) : Byte := romEntry invSboxRows a

/-- The rows of `GMUL9` (R35). -/
def gmul9Rows : List (BitVec 128) :=
  [0x0009121b242d363f48415a536c657e77#128,
   0x9099828bb4bda6afd8d1cac3fcf5eee7#128,
   0x3b3229201f160d04737a6168575e454c#128,
   0xaba2b9b08f869d94e3eaf1f8c7ced5dc#128]
  ++ [0x767f646d525b40493e372c251a130801#128,
   0xe6eff4fdc2cbd0d9aea7bcb58a839891#128,
   0x4d445f5669607b72050c171e2128333a#128,
   0xddd4cfc6f9f0ebe2959c878eb1b8a3aa#128]
  ++ [0xece5fef7c8c1dad3a4adb6bf8089929b#128,
   0x7c756e6758514a43343d262f1019020b#128,
   0xd7dec5ccf3fae1e89f968d84bbb2a9a0#128,
   0x474e555c636a71780f061d142b223930#128]
  ++ [0x9a938881beb7aca5d2dbc0c9f6ffe4ed#128,
   0x0a0318112e273c35424b5059666f747d#128,
   0xa1a8b3ba858c979ee9e0fbf2cdc4dfd6#128,
   0x3138232a151c070e79706b625d544f46#128]

/-- `GMUL9`, the product with 0x09 (R35). -/
def gmul9 (a : Byte) : Byte := romEntry gmul9Rows a

/-- The rows of `GMULB` (R36). -/
def gmulBRows : List (BitVec 128) :=
  [0x000b161d2c273a3158534e45747f6269#128,
   0xb0bba6ad9c978a81e8e3fef5c4cfd2d9#128,
   0x7b706d66575c414a2328353e0f041912#128,
   0xcbc0ddd6e7ecf1fa9398858ebfb4a9a2#128]
  ++ [0xf6fde0ebdad1ccc7aea5b8b38289949f#128,
   0x464d505b6a617c771e1508033239242f#128,
   0x8d869b90a1aab7bcd5dec3c8f9f2efe4#128,
   0x3d362b20111a070c656e737849425f54#128]
  ++ [0xf7fce1eadbd0cdc6afa4b9b28388959e#128,
   0x474c515a6b607d761f1409023338252e#128,
   0x8c879a91a0abb6bdd4dfc2c9f8f3eee5#128,
   0x3c372a21101b060d646f727948435e55#128]
  ++ [0x010a171c2d263b3059524f44757e6368#128,
   0xb1baa7ac9d968b80e9e2fff4c5ced3d8#128,
   0x7a716c67565d404b2229343f0e051813#128,
   0xcac1dcd7e6edf0fb9299848fbeb5a8a3#128]

/-- `GMULB`, the product with 0x0B (R36). -/
def gmulB (a : Byte) : Byte := romEntry gmulBRows a

/-- The rows of `GMULD` (R37). -/
def gmulDRows : List (BitVec 128) :=
  [0x000d1a1734392e236865727f5c51464b#128,
   0xd0ddcac7e4e9fef3b8b5a2af8c81969b#128,
   0xbbb6a1ac8f829598d3dec9c4e7eafdf0#128,
   0x6b66717c5f524548030e1914373a2d20#128]
  ++ [0x6d60777a5954434e05081f12313c2b26#128,
   0xbdb0a7aa8984939ed5d8cfc2e1ecfbf6#128,
   0xd6dbccc1e2eff8f5beb3a4a98a87909d#128,
   0x060b1c11323f28256e6374795a57404d#128]
  ++ [0xdad7c0cdeee3f4f9b2bfa8a5868b9c91#128,
   0x0a07101d3e332429626f7875565b4c41#128,
   0x616c7b7655584f420904131e3d30272a#128,
   0xb1bcaba685889f92d9d4c3ceede0f7fa#128]
  ++ [0xb7baada0838e9994dfd2c5c8ebe6f1fc#128,
   0x676a7d70535e49440f0215183b36212c#128,
   0x0c01161b3835222f64697e73505d4a47#128,
   0xdcd1c6cbe8e5f2ffb4b9aea3808d9a97#128]

/-- `GMULD`, the product with 0x0D (R37). -/
def gmulD (a : Byte) : Byte := romEntry gmulDRows a

/-- The rows of `GMULE` (R38). -/
def gmulERows : List (BitVec 128) :=
  [0x000e1c123836242a707e6c624846545a#128,
   0xe0eefcf2d8d6c4ca909e8c82a8a6b4ba#128,
   0xdbd5c7c9e3edfff1aba5b7b9939d8f81#128,
   0x3b352729030d1f114b455759737d6f61#128]
  ++ [0xada3b1bf959b8987ddd3c1cfe5ebf9f7#128,
   0x4d43515f757b69673d33212f050b1917#128,
   0x76786a644e40525c06081a143e30222c#128,
   0x96988a84aea0b2bce6e8faf4ded0c2cc#128]
  ++ [0x414f5d537977656b313f2d230907151b#128,
   0xa1afbdb39997858bd1dfcdc3e9e7f5fb#128,
   0x9a948688a2acbeb0eae4f6f8d2dccec0#128,
   0x7a746668424c5e500a041618323c2e20#128]
  ++ [0xece2f0fed4dac8c69c92808ea4aab8b6#128,
   0x0c02101e343a28267c72606e444a5856#128,
   0x37392b250f01131d47495b557f71636d#128,
   0xd7d9cbc5efe1f3fda7a9bbb59f91838d#128]

/-- `GMULE`, the product with 0x0E (R38). -/
def gmulE (a : Byte) : Byte := romEntry gmulERows a

end Sys2Proof.Machine
end

