-- ==== Sys2Proof/Machine/Cipher.lean ====
section
/-! DEFINITION. The four transformations of the state matrix (41_addroundkey.md to 44_invmixcolumns.md) as functions on
blocks, and the inverse cipher they make (45_sequencer.md R166). -/

namespace Sys2Proof.Machine

/-- Bytewise exclusive-or (R13, R110). -/
def xorBlock (a b : Block) : Block := Vector.ofFn fun i => a[i.val] ^^^ b[i.val]

/-- InvShiftRows (R120): row `r` moves `r` columns to the right, so new `s(r, c)` is old `s(r, (c - r) mod 4)`, and byte
`r + 4c` of a block is `s(r, c)`. -/
def invShiftRows (b : Block) : Block :=
  Vector.ofFn fun i => b[i.val % 4 + 4 * ((i.val / 4 + 4 - i.val % 4) % 4)]'(by omega)

/-- InvSubBytes (R130): every byte through the inverse S-box. -/
def invSubBytes (b : Block) : Block := Vector.ofFn fun i => invSbox b[i.val]

/-- Row `r` of the product of the matrix of R143 with a column, by table. -/
def invMixByte (a0 a1 a2 a3 : Byte) (r : Nat) : Byte :=
  match r with
  | 0 => gmulE a0 ^^^ gmulB a1 ^^^ gmulD a2 ^^^ gmul9 a3
  | 1 => gmul9 a0 ^^^ gmulE a1 ^^^ gmulB a2 ^^^ gmulD a3
  | 2 => gmulD a0 ^^^ gmul9 a1 ^^^ gmulE a2 ^^^ gmulB a3
  | _ => gmulB a0 ^^^ gmulD a1 ^^^ gmul9 a2 ^^^ gmulE a3

/-- InvMixColumns (R143): each column, rows 0 to 3, from the old four bytes of that column. -/
def invMixColumns (b : Block) : Block :=
  Vector.ofFn fun i =>
    invMixByte (b[4 * (i.val / 4)]'(by omega)) (b[4 * (i.val / 4) + 1]'(by omega))
      (b[4 * (i.val / 4) + 2]'(by omega)) (b[4 * (i.val / 4) + 3]'(by omega)) (i.val % 4)

/-- The rounds of R166 from `X_k` on: the rounds with round keys `k - 1` down to 1, with InvMixColumns, then the final
round with round key 0, without it (90_conflicts.md C1). -/
def invRounds (rk : Nat → Block) : Nat → Block → Block
  | 0, x => x
  | 1, x => xorBlock (invSubBytes (invShiftRows x)) (rk 0)
  | k + 2, x => invRounds rk (k + 1) (invMixColumns (xorBlock (invSubBytes (invShiftRows x)) (rk (k + 1))))

/-- `InvCipher(RK, Nr, IN)` of R166; `rk k` is round key `k`. -/
def invCipher (rk : Nat → Block) (nr : Nat) (x : Block) : Block :=
  invRounds rk nr (xorBlock x (rk nr))

end Sys2Proof.Machine
end

