-- ==== Sys2Proof/Config.lean ====
section
/-! DEFINITION. What a build of the block fixes (00_scope.md R7 to R10), and the free values: constants without a body
for what the spec leaves open. -/

namespace Sys2Proof

/-- The backend selector `BACKEND` (R9, R87, R190): `soft` is the datapath of this spec, `altStub` a declared alternate
backend with no implementation, `altReal` a real alternate backend. Code 3 is not used. -/
inductive Backend where
  | soft
  | altStub
  | altReal
deriving DecidableEq, Repr

/-- The three key lengths (R8, R85). -/
inductive KeyLen where
  | k128
  | k192
  | k256
deriving DecidableEq, Repr

/-- Where a platform puts the context, the input and the output, which R10 ("placement") and R51 leave open. DESIGN CHOICE
(log 29): a space is one contiguous rising run of locations, given by the location of its index 0, so that byte `i` is at
the base plus `i`; a placement that scatters the bytes of a space cannot be built. -/
structure Placement where
  kl  : Nat
  rk  : Nat
  inp : Nat
  out : Nat
deriving DecidableEq, Repr

/-- What is fixed when the block is built and placed. Nothing changes it at run time (R28, R190). -/
structure Build where
  backend : Backend
  place   : Placement
deriving DecidableEq, Repr

/-- FREE VALUE (U3, D23; log 11): the round key an ARK reads after the host has written a byte of the schedule in use
while the operation runs. The argument is the number of the draw. -/
opaque Config.unstableRoundKey : Nat → Block

/-- PARAMETER `ALT_OK(KL, RK, IN)` of R10 and R193 (log 12): whether a real alternate backend succeeds. The schedule is
the list of its round keys, round key 0 first. -/
opaque Config.altOk : KeyLen → List Block → Block → Bool

/-- FREE VALUE (R193 "a finite number of steps that this spec does not fix"; log 12): the steps a successful alternate
operation takes after the START step. The argument is the number of the draw. -/
opaque Config.altOkSteps : Nat → Nat

/-- FREE VALUE (R193, R195; log 12): the steps after the START step until a real alternate backend reports its failure,
the same for every failure ("indistinguishable in timing"). -/
opaque Config.altFailSteps : Nat

/-- FREE VALUE (R63, R252, U3; log 15): how an alternate operation ends when the schedule was written while it ran and the
step of a failure is still to come: some plaintext, or the failure. The argument is the number of the draw. -/
opaque Config.unstableAltOutcome : Nat → Option Block

/-- FREE VALUE (R63, R252, U3; log 15): the plaintext such an operation ends with when the step of a failure is past. The
argument is the number of the draw. -/
opaque Config.unstableAltPlain : Nat → Block

/-- FREE VALUE (U10; log 17): byte `i` of `OUT` as the host reads it before anyone has written it. -/
opaque Config.powerOnOut : Nat → Byte

end Sys2Proof
end

