-- ==== Sys2Proof/Syntax.lean ====
section
/-! DEFINITION. The operations of the opcode map (30_encoding.md R80, R84), one constructor per row of
spec/opcode_table.json. -/

namespace Sys2Proof

/-- The two formats of R80: a command word comes from the `CMD` port, a micro-operation word from the sequencer. -/
inductive Format where
  | command
  | micro
deriving DecidableEq, Repr

/-- An operation. The only operand is `k` of ARK, an unsigned 4-bit round-key index (R83). -/
inductive Instr where
  | cnop
  | start
  | nop
  | lds
  | ark (k : BitVec 4)
  | isr
  | isb
  | imc
  | sto
  | fail
deriving DecidableEq, Repr

/-- The format an operation is written in (R84). -/
def Instr.format : Instr → Format
  | .cnop | .start => .command
  | .nop | .lds | .ark _ | .isr | .isb | .imc | .sto | .fail => .micro

end Sys2Proof
end

