-- ==== Sys2Proof/WellFormed.lean ====
section
/-! DEFINITION. Which operations have a word that is not reserved (30_encoding.md R83, R89). -/

namespace Sys2Proof

/-- ARK's index is at most 14: the word of index 15 is reserved (R84, R89). No other operation has an operand. -/
def Instr.wellFormed : Instr → Bool
  | .ark k => k.toNat ≤ 14
  | .cnop | .start | .nop | .lds | .isr | .isb | .imc | .sto | .fail => true

end Sys2Proof
end

