-- ==== Sys2Proof/Decode.lean ====
section
/-! DEFINITION. The decoder and the encoder of 30_encoding.md: formats C and U (R81, R82), the opcode map (R84), the
reserved words (R89). -/

namespace Sys2Proof

/-- Why a word is no operation (R89); each carries the word. -/
inductive DecodeError where
  /-- A command word with a nonzero `zero` field, 0x02 to 0xFF. -/
  | reservedCommand (w : Byte)
  /-- A micro-operation word with `z` = 1. -/
  | reservedZ (w : Byte)
  /-- A micro-operation word other than ARK with `k` not 0. -/
  | strayK (w : Byte)
  /-- ARK with `k` = 15, the word 0x4F. -/
  | arkIndex15 (w : Byte)
deriving DecidableEq, Repr

/-- Field `zero` of format C, bits 7:1 (R81). -/
def zeroField (w : Byte) : BitVec 7 := w.extractLsb' 1 7

/-- Field `go` of format C, bit 0 (R81). -/
def goField (w : Byte) : BitVec 1 := w.extractLsb' 0 1

/-- Field `op` of format U, bits 7:5 (R82). -/
def opField (w : Byte) : BitVec 3 := w.extractLsb' 5 3

/-- Field `z` of format U, bit 4 (R82). -/
def zField (w : Byte) : BitVec 1 := w.extractLsb' 4 1

/-- Field `k` of format U, bits 3:0 (R82, R83). -/
def kField (w : Byte) : BitVec 4 := w.extractLsb' 0 4

/-- Format C (R81): `go` tells CNOP from START, a nonzero `zero` field is reserved. -/
def decodeCommand (w : Byte) : Except DecodeError Instr :=
  if zeroField w ≠ 0 then .error (.reservedCommand w)
  else if goField w = 0 then .ok .cnop
  else .ok .start

/-- Format U (R82): `op` names the operation, `k` is ARK's operand and 0 in every other word. -/
def decodeMicro (w : Byte) : Except DecodeError Instr :=
  if zField w ≠ 0 then .error (.reservedZ w)
  else if opField w = 2 then
    if kField w = 15 then .error (.arkIndex15 w) else .ok (.ark (kField w))
  else if kField w ≠ 0 then .error (.strayK w)
  else if opField w = 0 then .ok .nop
  else if opField w = 1 then .ok .lds
  else if opField w = 3 then .ok .isr
  else if opField w = 4 then .ok .isb
  else if opField w = 5 then .ok .imc
  else if opField w = 6 then .ok .sto
  else .ok .fail

/-- The decoder: the format is known from where the word comes (R80). -/
def decode : Format → Byte → Except DecodeError Instr
  | .command => decodeCommand
  | .micro => decodeMicro

/-- A word of format C (R81). -/
def commandWord (go : BitVec 1) : Byte := 0#7 ++ go

/-- A word of format U (R82). -/
def microWord (op : BitVec 3) (k : BitVec 4) : Byte := op ++ 0#1 ++ k

/-- The encoder: the word of an operation in its format (R81, R82, R84). -/
def encode : Instr → Byte
  | .cnop => commandWord 0
  | .start => commandWord 1
  | .nop => microWord 0 0
  | .lds => microWord 1 0
  | .ark k => microWord 2 k
  | .isr => microWord 3 0
  | .isb => microWord 4 0
  | .imc => microWord 5 0
  | .sto => microWord 6 0
  | .fail => microWord 7 0

/-- The operation of a table word given without its format: as a command word if it is one, else as a micro-operation
word. DESIGN CHOICE (log 8): 0x00, a word of both formats, reads as CNOP. -/
def decodeTableWord (nbits w : Nat) : Option Instr :=
  if nbits ≤ 8 ∧ w < 256 then
    match decode .command (BitVec.ofNat 8 w) with
    | .ok i => some i
    | .error _ =>
      match decode .micro (BitVec.ofNat 8 w) with
      | .ok i => some i
      | .error _ => none
  else none

end Sys2Proof
end

