-- ==== Sys2Proof/Machine/State.lean ====
section
/-! DEFINITION. The state of the block and its surroundings (10_state.md), how a step can stop, and the state after
reset. -/

namespace Sys2Proof.Machine

/-- The sequencer phase `PH` (R23, R88). Codes 1 and 7 are never taken and have no name here. -/
inductive Phase where
  | idle
  | ark
  | isr
  | isb
  | imc
  | store
deriving DecidableEq, Repr

/-- `STATUS.RESULT` (R26, R86). Code 3 is never produced and has no name here. -/
inductive Result where
  | none
  | ok
  | featureUnsupported
deriving DecidableEq, Repr

/-- The spaces the host and the block share (R50, and D2, D26 for the context byte `KL`). The ROMs are constants
(Machine/Tables.lean). -/
inductive Space where
  | kl
  | rk
  | inp
  | out
deriving DecidableEq, Repr

/-- A write the host makes between two steps (R44, R160): the whole of its rights but for `CMD`. -/
inductive HostWrite where
  | kl (v : Byte)
  | rk (i : Fin 240) (v : Byte)
  | inp (i : Fin 16) (v : Byte)
  | out (i : Fin 16) (v : Byte)
deriving DecidableEq, Repr

/-- What the host does around one step (log 6): its writes to the buffers, made before the step; whether the reset input
is asserted in the step; the word it writes to `CMD` in the step. -/
structure HostTurn where
  writes : List HostWrite := []
  reset  : Bool := false
  cmd    : Option Byte := Option.none
deriving DecidableEq, Repr

/-- An operation handed to a real alternate backend and not finished (R193; log 12). -/
structure AltOp where
  /-- The rounds of the schedule in use, `nr(KL)` at START. -/
  rounds : Nat
  /-- Steps still to take before the step that ends the operation. -/
  left   : Nat
  /-- The outcome as it stands: (a) the plaintext, or (b) none, the failure. -/
  plain  : Option Block
  /-- Whether the host has written the schedule in use since the outcome was fixed (R252). -/
  dirty  : Bool
  /-- Steps still to take before the one step in which a failure may be reported, none once it is past (R195: a failure
  takes a time that does not depend on `RK` or `IN`). -/
  failIn : Option Nat
deriving DecidableEq, Repr

/-- The shared storage: location and byte, locations strictly rising. A location that is not listed has no value
(R250, D26, U1; log 2). -/
abbrev Memory := List Host.Cell

/-- The canonical form. No listed byte equals what an unlisted location reads as, since that is no value. -/
abbrev Memory.wf (m : Memory) : Prop := m.Pairwise (fun x y => x.1 < y.1)

/-- The machine. The ROMs are not here: nothing writes them and reset does not affect them (R40). -/
structure State where
  /-- `S`, none when it is invalid, "no value" (R20, R22). -/
  sMat    : Option Block
  /-- `PH` (R23). -/
  ph      : Phase
  /-- `RND` (R24). -/
  rnd     : BitVec 4
  /-- `NRL` (R25). -/
  nrl     : BitVec 4
  /-- `STATUS.BUSY` (R26). -/
  busy    : Bool
  /-- `STATUS.RESULT` (R26). -/
  result  : Result
  /-- `KL`, `RK`, `IN` and `OUT` at their locations (R29 to R32, R50). -/
  mem     : Memory
  /-- `CFG.BACKEND` and the placement, fixed (R28, R190, R10). -/
  build   : Build
  /-- The operation in flight in a real alternate backend (R193). -/
  alt     : Option AltOp
  /-- The model's own: the schedule in use was written while a software operation runs (R252, U3; log 11). -/
  rkDirty : Bool
  /-- The model's own: how many free values have been drawn (log 24). -/
  draws   : Nat
  /-- The model's own: what the host does in the coming steps, one turn a step; nothing when the list is at its end
  (log 6). -/
  host    : List HostTurn
deriving DecidableEq, Repr

/-- Why a step stops with a fault. Every one is safe: no claim passes through it. -/
inductive Fault where
  /-- Raised by START (`KL`, `IN`, and `RK` in an ALT_REAL build), LDS and ARK on a byte that nothing has written since
  power-on. The spec states this stop: such a byte "holds no value; a model faults when an operation reads one. It is not
  zero" (D26), R250, and U1, whose treatment is "fault" and not "any value". Safe. -/
  | neverWritten (sp : Space)
  /-- Raised by START in a SOFT or ALT_REAL build when `KL` holds 3 (U2: "use fault at START"). Safe. -/
  | reservedKeyLength
  /-- Raised by ARK, ISR, ISB, IMC and STO when `S` is invalid; no run reaches it (R22). Safe. -/
  | invalidMatrix
  /-- Raised by a block access that leaves its space; no run reaches it (R55). Safe. -/
  | outsideSpace (sp : Space)
deriving DecidableEq, Repr

/-- Why the model gives a step no meaning. -/
inductive Refusal where
  /-- An instruction whose arm has no meaning yet; raised by the dispatcher alone. Safe. -/
  | notModelled (mnemonic : String)
  /-- A reserved command word written to `CMD` (R89, U6, D7: "a model refuses them"), raised by the step; and a reserved
  micro-operation word, which the sequencer never issues (R89). Safe. -/
  | reservedWord (e : DecodeError)
  /-- ARK with an index above `NRL` (R89: "a model gives it no meaning"); no run reaches it. Safe. -/
  | roundKeyBeyondSchedule (k : BitVec 4)
  /-- A placement in which `OUT` overlaps `RK` or `KL`, or the inputs overlap each other (U5; log 4), raised by the step.
  Safe. -/
  | overlappingPlacement
deriving DecidableEq, Repr

/-- A build at power-on, reset released (R45, R223): nothing has been written to any buffer, the host is idle. -/
def State.powerOn (b : Build) : State where
  sMat := Option.none
  ph := .idle
  rnd := 0
  nrl := 0
  busy := false
  result := .none
  mem := []
  build := b
  alt := Option.none
  rkDirty := false
  draws := 0
  host := []

/-- The build of `State.reset`. DESIGN CHOICE (log 4, log 5): the SOFT backend, and four disjoint spaces. -/
def defaultBuild : Build where
  backend := .soft
  place := ⟨0, 64, 16, 32⟩

/-- The machine right after reset (R45, R240). -/
def State.reset : State := State.powerOn defaultBuild

end Sys2Proof.Machine
end

