-- ==== Sys2Proof/Machine/Ops.lean ====
section
/-! DEFINITION. The named operations over the shared storage and over the registers, the one failure (the block's
exception), and reset. -/

namespace Sys2Proof.Machine

/-- How one step ends. -/
abbrev StepOutcome := Host.Outcome State Fault Refusal

/-- Goes on with a value that was read, or stops with the fault of the read. -/
def onValue {α : Type} (r : Except Fault α) (f : α → StepOutcome) : StepOutcome :=
  match r with
  | .ok a => f a
  | .error e => .fault e

/-- Goes on from the next state, or stops as the first part did. -/
def andThen (o : StepOutcome) (f : State → StepOutcome) : StepOutcome :=
  match o with
  | .next s => f s
  | .fault e => .fault e
  | .refused e => .refused e

/-! ## The shared storage -/

/-- The byte at a location, none where nothing has been written (R250, D26). -/
def memRead : Memory → Nat → Option Byte
  | [], _ => none
  | (b, v) :: m, a => if a = b then some v else memRead m a

/-- Writes one byte, keeping the locations strictly rising. -/
def memWrite : Memory → Nat → Byte → Memory
  | [], a, v => [(a, v)]
  | (b, w) :: m, a, v =>
    if a < b then (a, v) :: (b, w) :: m
    else if a = b then (a, v) :: m
    else (b, w) :: memWrite m a v

/-- Writes bytes to rising locations from `a` on. -/
def memWriteBytes (m : Memory) (a : Nat) : List Byte → Memory
  | [] => m
  | v :: vs => memWriteBytes (memWrite m a v) (a + 1) vs

/-- The 16 bytes from `a` on, none if one of them has never been written. -/
def memReadBlock (m : Memory) (a : Nat) : Option Block :=
  if (List.range 16).all fun i => (memRead m (a + i)).isSome then
    some (Vector.ofFn fun i => (memRead m (a + i.val)).getD 0)
  else none

/-- Writes the 16 bytes of a block, byte 0 at `a` (R52, R101). -/
def memWriteBlock (m : Memory) (a : Nat) (b : Block) : Memory :=
  memWriteBytes m a b.toList

/-! ## The registers -/

/-- Reads `S` whole. An invalid `S` has no value to read (R22). -/
def State.readMatrix (s : State) : Except Fault Block :=
  match s.sMat with
  | some b => .ok b
  | none => .error .invalidMatrix

/-- Writes `S` whole (R21). -/
def State.setMatrix (s : State) (b : Block) : State := { s with sMat := some b }

/-- Makes `S` invalid (R22, R101: "discarded after"). -/
def State.discardMatrix (s : State) : State := { s with sMat := none }

/-- Sets the sequencer phase. -/
def State.setPhase (s : State) (p : Phase) : State := { s with ph := p }

/-- Sets the round-key index counter. -/
def State.setRound (s : State) (r : BitVec 4) : State := { s with rnd := r }

/-- Loads the round counter and latches the number of rounds (R161). -/
def State.latchRounds (s : State) (n : BitVec 4) : State := { s with rnd := n, nrl := n }

/-- Sets `STATUS.BUSY`. -/
def State.setBusy (s : State) (b : Bool) : State := { s with busy := b }

/-- Sets `STATUS.RESULT`. -/
def State.setResult (s : State) (r : Result) : State := { s with result := r }

/-- Replaces the shared storage. -/
def State.setMem (s : State) (m : Memory) : State := { s with mem := m }

/-- Sets the operation in flight in the alternate backend. -/
def State.setAlt (s : State) (a : Option AltOp) : State := { s with alt := a }

/-- Records whether the schedule in use has been written during the operation. -/
def State.setRkDirty (s : State) (b : Bool) : State := { s with rkDirty := b }

/-- Counts one free value as drawn. -/
def State.countDraw (s : State) : State := { s with draws := s.draws + 1 }

/-- The host's turn for the coming step: an idle one when its list is at its end. -/
def State.turn (s : State) : HostTurn := s.host.headD {}

/-- Passes to the host's next turn. -/
def State.dropTurn (s : State) : State := { s with host := s.host.tail }

/-! ## The failure and reset -/

/-- The one failure of the block, a value and not a control transfer (R191, R212, R214): `RESULT` becomes
FEATURE_UNSUPPORTED and nothing else changes. There is no return from it (R215). -/
def State.reportUnsupported (s : State) : State := s.setResult .featureUnsupported

/-- Reset (R240, R242): `PH`, `RND`, `NRL`, `BUSY`, `RESULT` and `S` take their reset values and a running operation is
abandoned; `KL`, `RK`, `IN`, `OUT` and the build are not written. DEDUCED (log 16): an operation in flight in an
alternate backend is abandoned too. -/
def State.afterReset (s : State) : State :=
  { s with sMat := none, ph := .idle, rnd := 0, nrl := 0, busy := false, result := .none, alt := none,
           rkDirty := false }

end Sys2Proof.Machine
end

