-- ==== Sys2Proof/Machine/Operands.lean ====
section
/-! DEFINITION. The operands of the operations: the key-length selector, the round key an index names, the input block,
the output block, and where each stands (20_memory.md, 30_encoding.md R83, R85). -/

namespace Sys2Proof.Machine

/-- The block written as 32 hex digits, byte 0 leftmost (R13). -/
def blockOf (v : BitVec 128) : Block :=
  Vector.ofFn fun i => v.extractLsb' (8 * (15 - i.val)) 8

/-- How many bytes a space has (R50; `KL` is one byte, R29). -/
def Space.size : Space → Nat
  | .kl => 1
  | .rk => 240
  | .inp => 16
  | .out => 16

/-- The location of index 0 of a space. -/
def placeBase (p : Placement) : Space → Nat
  | .kl => p.kl
  | .rk => p.rk
  | .inp => p.inp
  | .out => p.out

/-- The location of index `i` of a space (R51). DESIGN CHOICE (log 29): the base of the space plus `i`. -/
def State.locate (s : State) (sp : Space) (i : Nat) : Nat := placeBase s.build.place sp + i

/-- Whether two spaces have no location in common. -/
def apart (p : Placement) (x y : Space) : Bool :=
  placeBase p x + x.size ≤ placeBase p y || placeBase p y + y.size ≤ placeBase p x

/-- The placements a run may have (U5, R60, R255; log 4): `OUT` clear of `RK` and `KL`; DEDUCED from R51, the other
pairs clear of each other too. `IN` and `OUT` may overlap, wholly or in part (R59). -/
def placeLegal (p : Placement) : Bool :=
  apart p .out .rk && apart p .out .kl && apart p .inp .rk && apart p .inp .kl && apart p .rk .kl

/-- MemRead of 16 bytes (R15, R56). A byte never written since power-on has no value and its read by an operation is a
fault, as the spec says (R250, D26, U1); so is an access that leaves the space, which no run makes (R55). -/
def State.readBlock (s : State) (sp : Space) (i : Nat) : Except Fault Block :=
  if i + 16 ≤ sp.size then
    match memReadBlock s.mem (s.locate sp i) with
    | some b => .ok b
    | none => .error (.neverWritten sp)
  else .error (.outsideSpace sp)

/-- The single 16-byte write of `OUT` (R101). -/
def State.writeOut (s : State) (b : Block) : State :=
  s.setMem (memWriteBlock s.mem (s.locate .out 0) b)

/-- The key length of a 2-bit code (R85). Code 3 is reserved. -/
def keyLenOf (c : BitVec 2) : Option KeyLen :=
  if c = 0 then some .k128 else if c = 1 then some .k192 else if c = 2 then some .k256 else none

/-- The 2-bit code of a key length (R85). -/
def keyLenCode : KeyLen → BitVec 2
  | .k128 => 0
  | .k192 => 1
  | .k256 => 2

/-- `nr(KL)`, the number of rounds (R7, R85). -/
def keyLenRounds : KeyLen → Nat
  | .k128 => 10
  | .k192 => 12
  | .k256 => 14

/-- START's read of `KL` (R29, R161): bits 1:0 of its byte. A `KL` never written since power-on has no value and its read
is a fault, as the spec says (R250, D26, U1); so is the reserved code 3 (U2). -/
def State.readKl (s : State) : Except Fault KeyLen :=
  match memRead s.mem (s.locate .kl 0) with
  | none => .error (.neverWritten .kl)
  | some v =>
    match keyLenOf (v.extractLsb' 0 2) with
    | some k => .ok k
    | none => .error .reservedKeyLength

/-- Where round key `k` begins in `RK` (R83). -/
def roundKeyIndex (k : Nat) : Nat := 16 * k

/-- ARK's read of round key `k`, with the state after it (R110). When the schedule in use was written during the
operation the value is free and one draw is counted (U3: "the round key read by each later ARK is any value"). -/
def State.readRoundKey (s : State) (k : BitVec 4) : Except Fault (Block × State) :=
  if s.rkDirty then .ok (Config.unstableRoundKey s.draws, s.countDraw)
  else
    match s.readBlock .rk (roundKeyIndex k.toNat) with
    | .ok key => .ok (key, s)
    | .error e => .error e

/-- Round keys 0 to `n - 1` of the schedule, in order: what a real alternate backend is given (R193). -/
def State.readSchedule (s : State) : Nat → Except Fault (List Block)
  | 0 => .ok []
  | n + 1 =>
    match s.readSchedule n with
    | .error e => .error e
    | .ok keys =>
      match s.readBlock .rk (roundKeyIndex n) with
      | .ok key => .ok (keys ++ [key])
      | .error e => .error e

end Sys2Proof.Machine
end

