-- ==== Sys2Proof/Machine/LoadStore.lean ====
section
/-! DEFINITION. LDS and STO (40_load_store.md). -/

namespace Sys2Proof.Machine

/-- `S <- IN`, one 16-byte read (R100): shared by LDS and by START, which executes LDS. -/
def State.loadMatrix (s : State) : Except Fault State :=
  match s.readBlock .inp 0 with
  | .ok b => .ok (s.setMatrix b)
  | .error e => .error e

/-- LDS (R100). It writes `S` and no flag; the sequencer's changes in the same step are START's (R161; log 23). -/
def execLds (s : State) : StepOutcome := onValue s.loadMatrix .next

/-- `OUT <- T`, `RESULT <- OK` in one step (R64 b): shared by STO and by the alternate backend's outcome (a). -/
def State.deliver (s : State) (b : Block) : State := (s.writeOut b).setResult .ok

/-- STO (R101): `OUT <- S`, `RESULT <- OK`, `BUSY <- 0`, `PH <- IDLE`, `S` invalid, all in the one step. -/
def execSto (s : State) : StepOutcome :=
  onValue s.readMatrix fun b => .next ((((s.deliver b).setBusy false).setPhase .idle).discardMatrix)

end Sys2Proof.Machine
end

