-- ==== Sys2Proof/Machine/Backend.lean ====
section
/-! DEFINITION. FAIL and the alternate backends (46_backend.md). -/

namespace Sys2Proof.Machine

/-- FAIL (R191): `RESULT <- FEATURE_UNSUPPORTED` and nothing else. -/
def execFail (s : State) : StepOutcome := .next s.reportUnsupported

/-- The outcome a real alternate backend comes to (R193): (a) `InvCipher(RK, nr(KL), IN)` when `ALT_OK` holds of the
context and the input, (b) none, the failure, when it does not. -/
def altOutcome (kl : KeyLen) (keys : List Block) (inp : Block) : Option Block :=
  if Config.altOk kl keys inp then
    some (invCipher (fun k => keys.getD k (Vector.replicate 16 0)) (keyLenRounds kl) inp)
  else none

/-- How many steps after the START step an alternate operation ends (R193: finite, not fixed; R195: the same for every
failure). -/
def altSteps (outcome : Option Block) (draw : Nat) : Nat :=
  match outcome with
  | some _ => Config.altOkSteps draw
  | none => Config.altFailSteps

/-- START in an ALT_REAL build (R161: "hand the operation to the alternate backend"; log 12). The arguments are read as
they stand at START (R43). `RESULT` is NONE until the operation ends (R86); `BUSY`, `PH` and this datapath do not move
(R26, R163). DEDUCED (log 13): while an operation is in flight a second START is ignored (R254). -/
def State.handToAlternate (s : State) : StepOutcome :=
  if s.alt.isSome then .next s
  else
    onValue s.readKl fun kl =>
    onValue (s.readBlock .inp 0) fun inp =>
    onValue (s.readSchedule (keyLenRounds kl + 1)) fun keys =>
      let outcome := altOutcome kl keys inp
      .next (((s.setAlt (some ⟨keyLenRounds kl, altSteps outcome s.draws, outcome, false, some Config.altFailSteps⟩)).setResult .none).countDraw)

/-- The end of an alternate operation (R193): (a) `OUT` written whole and `RESULT = OK` in the same step, or (b) the
failure with `OUT` untouched. -/
def State.settleAlt (s : State) (outcome : Option Block) : State :=
  match outcome with
  | some b => (s.setAlt none).deliver b
  | none => (s.setAlt none).reportUnsupported

/-- The outcome and its time drawn anew, after a write to the schedule in use (R252, U3; log 15): any plaintext, after any
number of steps; or the failure, in the one step in which a failure is reported (R195), if that step is still to come. -/
def AltOp.redrawn (op : AltOp) (draw : Nat) : AltOp :=
  match op.failIn with
  | none => { op with left := Config.altOkSteps draw, plain := some (Config.unstableAltPlain draw), dirty := false }
  | some f =>
    match Config.unstableAltOutcome draw with
    | some b => { op with left := Config.altOkSteps draw, plain := some b, dirty := false }
    | none => { op with left := f, plain := none, dirty := false }

/-- One step on: both counts go down; after the step in which a failure is reported there is no other. -/
def AltOp.later (op : AltOp) : AltOp :=
  { op with
    left := op.left - 1
    failIn :=
      match op.failIn with
      | none => none
      | some 0 => none
      | some (f + 1) => some f }

/-- A step of an operation whose outcome is fixed: it counts down and, at the end, delivers. -/
def State.tickAlt (s : State) (op : AltOp) : State :=
  if op.left = 0 then s.settleAlt op.plain else s.setAlt (some op.later)

/-- What the alternate backend does in one step. When the schedule in use was written, the outcome is drawn anew first. -/
def State.altTick (s : State) : State :=
  match s.alt with
  | none => s
  | some op => if op.dirty then s.countDraw.tickAlt (op.redrawn s.draws) else s.tickAlt op

end Sys2Proof.Machine
end

