-- ==== Sys2Proof/Machine/Commands.lean ====
section
/-! DEFINITION. The command words START and CNOP and the idle micro-operation NOP (45_sequencer.md R161, R162, R169). -/

namespace Sys2Proof.Machine

/-- CNOP (R162): no state changes, in any phase. -/
def execCnop (s : State) : StepOutcome := .next s

/-- NOP (R162): nothing is read or written. -/
def execNop (s : State) : StepOutcome := .next s

/-- The SOFT branch of START (R161): `nr(KL)` into `NRL` and `RND`, LDS, `RESULT <- NONE`, `BUSY <- 1`, `PH <- ARK`. The
schedule counts as unwritten-to from here on (R252). -/
def State.beginSoft (s : State) : StepOutcome :=
  onValue s.readKl fun kl =>
  onValue s.loadMatrix fun t =>
    .next (((((t.latchRounds (BitVec.ofNat 4 (keyLenRounds kl))).setResult .none).setBusy true).setPhase .ark).setRkDirty
      false)

/-- START (R161): ignored while an operation runs (R169); else by `BACKEND`. The backend is looked at before the context
(R216 b). -/
def execStart (s : State) : StepOutcome :=
  if s.ph ≠ .idle then .next s
  else
    match s.build.backend with
    | .altStub => .next s.reportUnsupported
    | .altReal => s.handToAlternate
    | .soft => s.beginSoft

end Sys2Proof.Machine
end

