-- ==== Sys2Proof/Machine/Flags.lean ====
section
/-! DEFINITION. The codes of the fields and the two read-only registers `STATUS` and `CFG` (10_state.md R26, R28;
30_encoding.md R86 to R88). -/

namespace Sys2Proof.Machine

/-- `STATUS.RESULT` (R86). -/
def Result.code : Result → BitVec 2
  | .none => 0
  | .ok => 1
  | .featureUnsupported => 2

/-- `CFG.BACKEND` (R87). -/
def backendCode : Backend → BitVec 2
  | .soft => 0
  | .altStub => 1
  | .altReal => 2

/-- `PH` (R88). -/
def Phase.code : Phase → BitVec 3
  | .idle => 0
  | .ark => 2
  | .isr => 3
  | .isb => 4
  | .imc => 5
  | .store => 6

/-- The register `STATUS` as the host reads it: bits 7:3 are 0, bit 2 `BUSY`, bits 1:0 `RESULT` (R26). -/
def State.status (s : State) : Byte := 0#5 ++ BitVec.ofBool s.busy ++ s.result.code

/-- The register `CFG` as the host reads it: bits 7:2 are 0, bits 1:0 `BACKEND` (R28). -/
def State.cfg (s : State) : Byte := 0#6 ++ backendCode s.build.backend

end Sys2Proof.Machine
end

