-- ==== Sys2Proof/Machine/HostPort.lean ====
section
/-! DEFINITION. The host's side of the block (10_state.md R44, 45_sequencer.md R160, R171): what it may write and what it
reads. -/

namespace Sys2Proof.Machine

/-- The location and the byte of a host write. Bits 7:2 of `KL` ignore writes (R29). -/
def State.hostCell (s : State) : HostWrite → Host.Cell
  | .kl v => (s.locate .kl 0, v &&& 0x03)
  | .rk i v => (s.locate .rk i.val, v)
  | .inp i v => (s.locate .inp i.val, v)
  | .out i v => (s.locate .out i.val, v)

/-- Whether a host write hits one of the first `16 * (Nr + 1)` bytes of the schedule (R30, R252). -/
def hitsSchedule (nr : Nat) : HostWrite → Bool
  | .rk i _ => decide (i.val < 16 * (nr + 1))
  | .kl _ | .inp _ _ | .out _ _ => false

/-- One host write. If it hits the schedule of an operation that runs, what that operation goes on to read is open from
here on (R252, U3; log 11, log 15). -/
def State.hostWrite (s : State) (w : HostWrite) : State :=
  { s with
    mem := memWrite s.mem (s.hostCell w).1 (s.hostCell w).2
    rkDirty := s.rkDirty || (s.ph != .idle && hitsSchedule s.nrl.toNat w)
    alt := s.alt.map fun op => { op with dirty := op.dirty || hitsSchedule op.rounds w } }

/-- The host's writes of this turn, oldest first, made before the step (R64 a); the turn is then used up. -/
def State.afterHostWrites (s : State) : State := s.turn.writes.foldl State.hostWrite s.dropTurn

/-! ## What the host reads (R44, R58: no read has a side effect). -/

/-- The host's read of `KL`: bits 7:2 read as 0 (R29); no value before the first write (U10). -/
def State.hostReadKl (s : State) : Option Byte := (memRead s.mem (s.locate .kl 0)).map (· &&& 0x03)

/-- The host's read of byte `i` of `RK`. -/
def State.hostReadRk (s : State) (i : Fin 240) : Option Byte := memRead s.mem (s.locate .rk i.val)

/-- The host's read of byte `i` of `IN`. -/
def State.hostReadIn (s : State) (i : Fin 16) : Option Byte := memRead s.mem (s.locate .inp i.val)

/-- The host's read of byte `i` of `OUT`: any value before the first write (U10; log 17). -/
def State.hostReadOut (s : State) (i : Fin 16) : Byte :=
  (memRead s.mem (s.locate .out i.val)).getD (Config.powerOnOut i.val)

end Sys2Proof.Machine
end

