-- ==== Sys2Proof/Machine/Rounds.lean ====
section
/-! DEFINITION. The transformations as micro-operations: ARK, ISR, ISB, IMC (41_addroundkey.md to 44_invmixcolumns.md),
each with its move of the sequencer (45_sequencer.md R163). -/

namespace Sys2Proof.Machine

/-- Reads `S` whole, writes it whole (R21), then makes the sequencer's move. -/
def transform (f : Block → Block) (move : State → State) (s : State) : StepOutcome :=
  onValue s.readMatrix fun b => .next (move (s.setMatrix (f b)))

/-- The sequencer's move after an ARK (R163): after the first ARK of an operation, `RND = NRL`, the count goes down and
the rounds begin; after ARK 0 comes STORE; after any other, IMC. -/
def State.moveAfterArk (s : State) : State :=
  if s.rnd = s.nrl then (s.setRound (s.rnd - 1)).setPhase .isr
  else if s.rnd = 0 then s.setPhase .store
  else s.setPhase .imc

/-- The sequencer's move after an IMC (R163). -/
def State.moveAfterImc (s : State) : State := (s.setRound (s.rnd - 1)).setPhase .isr

/-- ARK `k` (R110): `S <- S ^ RK[16k .. 16k+15]`. An index above `NRL` is legal as a word and has no meaning (R89). -/
def execArk (k : BitVec 4) (s : State) : StepOutcome :=
  if s.nrl < k then .refused (.roundKeyBeyondSchedule k)
  else onValue (s.readRoundKey k) fun r => transform (fun b => xorBlock b r.1) State.moveAfterArk r.2

/-- ISR (R120). -/
def execIsr (s : State) : StepOutcome := transform invShiftRows (fun t => t.setPhase .isb) s

/-- ISB (R130). -/
def execIsb (s : State) : StepOutcome := transform invSubBytes (fun t => t.setPhase .ark) s

/-- IMC (R143). -/
def execImc (s : State) : StepOutcome := transform invMixColumns State.moveAfterImc s

end Sys2Proof.Machine
end

