-- ==== Sys2Proof/Machine/Sequencer.lean ====
section
/-! DEFINITION. Which micro-operation word the sequencer issues (45_sequencer.md R163), and how a word is placed where the
next step takes it. -/

namespace Sys2Proof.Machine

/-- The word the sequencer issues in a step in which no START is accepted (R163, R84): by `PH`, and for ARK by `RND`. -/
def State.sequencerWord (s : State) : Byte :=
  match s.ph with
  | .idle => 0x00
  | .ark => 0x40 + s.rnd.zeroExtend 8
  | .isr => 0x60
  | .isb => 0x80
  | .imc => 0xA0
  | .store => 0xC0

/-! ## Placing an instruction (log 9) -/

/-- The machine between two operations: `PH = IDLE`, with what an operation under way would leave open closed. -/
def State.betweenOperations (s : State) : State :=
  { s with sMat := none, ph := .idle, rnd := 0, busy := false, alt := none }

/-- The `n` bytes from location `a` on, each 0. -/
def zeroCells (a : Nat) : Nat → Memory
  | 0 => []
  | n + 1 => (a, 0) :: zeroCells (a + 1) n

/-- Gives the value 0 to those of the `n` bytes from location `a` on that have none: the host has filled its buffers. -/
def fillUnwritten : Memory → Nat → Nat → Memory
  | [], a, n => zeroCells a n
  | (b, v) :: m, a, n =>
    if b < a then (b, v) :: fillUnwritten m a n
    else zeroCells a (min n (b - a)) ++ (b, v) :: fillUnwritten m (b + 1) (n - (b + 1 - a))

/-- The host has filled `KL`, `RK` and `IN` (R243): bytes without a value get one. -/
def State.fillContext (s : State) : State :=
  s.setMem
    (fillUnwritten (fillUnwritten (fillUnwritten s.mem (s.locate .kl 0) 1) (s.locate .rk 0) 240) (s.locate .inp 0) 16)

/-- The host writes `w` to `CMD` in the coming step and does nothing else in it. -/
def State.onCommandPort (s : State) (w : Byte) : State :=
  { s with host := ⟨[], false, some w⟩ :: s.host }

/-- The host does nothing in the coming step. -/
def State.quietNext (s : State) : State := { s with host := {} :: s.host }

/-- A software operation of 14 rounds is under way at phase `p` with counter `r`; `S` keeps its value if it has one. -/
def State.underWay (s : State) (p : Phase) (r : BitVec 4) : State :=
  { s with
    sMat := some (s.sMat.getD (Vector.replicate 16 0)), ph := p, rnd := r, nrl := 14, busy := true
    result := .none, alt := none, rkDirty := false, build := { s.build with backend := .soft } }

/-- The state whose next step takes an instruction: a command stands at the `CMD` port; LDS and FAIL are executed by a
START, in a SOFT or an ALT_STUB build (R100, R191); the others are issued by the sequencer in their phase. -/
def State.placeInstr (s : State) : Instr → State
  | .cnop => s.betweenOperations.onCommandPort (encode .cnop)
  | .start => s.betweenOperations.fillContext.onCommandPort (encode .start)
  | .nop => s.betweenOperations.quietNext
  | .lds =>
    { s.betweenOperations.fillContext.onCommandPort (encode .start) with build := { s.build with backend := .soft } }
  | .ark k => (s.underWay .ark k).fillContext.quietNext
  | .isr => (s.underWay .isr 1).quietNext
  | .isb => (s.underWay .isb 1).quietNext
  | .imc => (s.underWay .imc 1).quietNext
  | .sto => (s.underWay .store 0).quietNext
  | .fail =>
    { s.betweenOperations.onCommandPort (encode .start) with build := { s.build with backend := .altStub } }

/-- A table word placed where the next step takes it. A word that is no instruction is written to `CMD`. -/
def State.placeWord (s : State) (nbits w : Nat) : State :=
  match decodeTableWord nbits w with
  | some i => s.placeInstr i
  | none => s.betweenOperations.onCommandPort (BitVec.ofNat 8 w)

end Sys2Proof.Machine
end

