-- ==== Sys2Proof/Machine/Dispatch.lean ====
section
/-! DEFINITION. One arm per constructor of Instr. -/

namespace Sys2Proof.Machine

def exec (i : Instr) (s : State) : Host.Outcome State Fault Refusal :=
  match i with
  | .cnop => Sys2Proof.Machine.execCnop s
  | .start => Sys2Proof.Machine.execStart s
  | .nop => Sys2Proof.Machine.execNop s
  | .lds => Sys2Proof.Machine.execLds s
  | .ark k => Sys2Proof.Machine.execArk k s
  | .isr => Sys2Proof.Machine.execIsr s
  | .isb => Sys2Proof.Machine.execIsb s
  | .imc => Sys2Proof.Machine.execImc s
  | .sto => Sys2Proof.Machine.execSto s
  | .fail => Sys2Proof.Machine.execFail s

end Sys2Proof.Machine
end

