-- ==== Sys2Proof/Machine/Step.lean ====
section
/-! DEFINITION. One step of the block with its host: the host's writes, reset, the command, the sequencer's
micro-operation, the alternate backend (45_sequencer.md R160 to R163, 70_reset_and_hazards.md R240). -/

namespace Sys2Proof.Machine

/-- The sequencer's part of a step: it issues a word, the word is decoded and executed (R163). -/
def sequencerStep (s : State) : Host.Outcome State Fault Refusal :=
  match decode .micro s.sequencerWord with
  | .ok i => exec i s
  | .error e => .refused (.reservedWord e)

/-- The part of a step that follows the host's writes: an accepted START executes its own micro-operation (R161); any
other command is followed by the sequencer's (R162, R169); a reserved command word is refused (R89, U6). -/
def commandStep (cmd : Option Byte) (s : State) : Host.Outcome State Fault Refusal :=
  match cmd with
  | none => sequencerStep s
  | some w =>
    match decode .command w with
    | .error e => .refused (.reservedWord e)
    | .ok i =>
      if i = .start ∧ s.ph = .idle then exec i s else andThen (exec i s) sequencerStep

/-- One step. A placement that overlaps is refused (U5). Reset wins over the command and the micro-operation (R216,
R240). -/
def step (s : State) : Host.Outcome State Fault Refusal :=
  if placeLegal s.build.place then
    if s.turn.reset then .next s.afterHostWrites.afterReset
    else andThen (commandStep s.turn.cmd s.afterHostWrites) fun t => .next t.altTick
  else .refused .overlappingPlacement

/-- The state whose next step runs the instruction of a table word (log 9). -/
def State.withFetchWord (s : State) (nbits w : Nat) : State := s.placeWord nbits w

end Sys2Proof.Machine
end

