-- ==== Sys2Proof/Machine/Reference.lean ====
section
/-! DEFINITION. What the spec says around the machine and the machine does not contain: GF(2^8) arithmetic by formula
(44_invmixcolumns.md R140 to R143), the forward transformations (10_state.md R39, R122, R145), the pseudo-operations
(30_encoding.md R92) and the trace of micro-operations (45_sequencer.md R165). Statements are said with these. -/

namespace Sys2Proof.Machine

/-! ## GF(2^8) -/

/-- `xtime`, the product with 0x02 (R141). -/
def xtime (a : Byte) : Byte := (a <<< 1) ^^^ (if a.getLsbD 7 then 0x1B else 0x00)

/-- `xtime` applied `n` times. -/
def xtimes : Nat → Byte → Byte
  | 0, a => a
  | n + 1, a => xtimes n (xtime a)

/-- The product of GF(2^8) (R140, R142): the exclusive-or, over the set bits `i` of `b`, of `xtime` applied `i` times to
`a`. -/
def gfMul (a b : Byte) : Byte :=
  (List.range 8).foldl (fun acc i => if b.getLsbD i then acc ^^^ xtimes i a else acc) 0

/-- `inv` of R39, as the 254th power: 0 at 0, else the `b` with `a . b = 0x01` (Laws/Field.lean shows it). -/
def gfInv (a : Byte) : Byte :=
  let a2 := gfMul a a
  let a4 := gfMul a2 a2
  let a8 := gfMul a4 a4
  let a16 := gfMul a8 a8
  let a32 := gfMul a16 a16
  let a64 := gfMul a32 a32
  let a128 := gfMul a64 a64
  gfMul a2 (gfMul a4 (gfMul a8 (gfMul a16 (gfMul a32 (gfMul a64 a128)))))

/-- `rotl` of R39. -/
def rotl (b : Byte) (n : Nat) : Byte := (b <<< n) ||| (b >>> (8 - n))

/-- The forward S-box by its formula (R39); the block does not contain it. -/
def sbox (a : Byte) : Byte :=
  let t := gfInv a
  t ^^^ rotl t 1 ^^^ rotl t 2 ^^^ rotl t 3 ^^^ rotl t 4 ^^^ 0x63

/-- The entry of the matrix of R143 in row `r`, column `j`. -/
def invMixCoeff (r j : Nat) : Byte :=
  match (j + 4 - r) % 4 with
  | 0 => 0x0E
  | 1 => 0x0B
  | 2 => 0x0D
  | _ => 0x09

/-- The entry of the forward matrix in row `r`, column `j` (R145 b). -/
def mixCoeff (r j : Nat) : Byte :=
  match (j + 4 - r) % 4 with
  | 0 => 0x02
  | 1 => 0x03
  | _ => 0x01

/-- Row `r` of the product of a 4 x 4 matrix with column `c` of a block (R143). -/
def matrixByte (m : Nat → Nat → Byte) (b : Block) (c : Fin 4) (r : Nat) : Byte :=
  gfMul b[4 * c.val] (m r 0) ^^^ gfMul b[4 * c.val + 1] (m r 1) ^^^ gfMul b[4 * c.val + 2] (m r 2)
    ^^^ gfMul b[4 * c.val + 3] (m r 3)

/-! ## The forward transformations (not in the block) -/

/-- SubBytes, by the forward S-box (R39). -/
def subBytes (b : Block) : Block := Vector.ofFn fun i => sbox b[i.val]

/-- ShiftRows: three applications of InvShiftRows (R122 b). -/
def shiftRows (b : Block) : Block := invShiftRows (invShiftRows (invShiftRows b))

/-- MixColumns, the forward matrix on each column (R145 b). -/
def mixColumns (b : Block) : Block :=
  Vector.ofFn fun i => matrixByte mixCoeff b ⟨i.val / 4, by omega⟩ (i.val % 4)

/-- The block after the initial AddRoundKey and `n` rounds of the forward cipher, each with MixColumns. -/
def forwardRounds (rk : Nat → Block) (x : Block) : Nat → Block
  | 0 => xorBlock x (rk 0)
  | n + 1 => xorBlock (mixColumns (shiftRows (subBytes (forwardRounds rk x n)))) (rk (n + 1))

/-- The forward cipher `encrypt` of R167 a, which the block does not contain: the inverse transformations of R164 undone
in reverse order. -/
def forwardCipher (rk : Nat → Block) : Nat → Block → Block
  | 0, x => xorBlock x (rk 0)
  | n + 1, x => xorBlock (shiftRows (subBytes (forwardRounds rk x n))) (rk (n + 1))

/-! ## Pseudo-operations and the trace -/

/-- `IROUND k` (R92). -/
def iround (k : Nat) : List Instr := [.isr, .isb, .ark (BitVec.ofNat 4 k), .imc]

/-- `IFINAL` (R92). -/
def ifinal : List Instr := [.isr, .isb, .ark 0]

/-- `IROUND n ; IROUND n-1 ; ... ; IROUND 1` (R92). -/
def irounds : Nat → List Instr
  | 0 => []
  | n + 1 => iround (n + 1) ++ irounds n

/-- `DECRYPT nr` (R92). -/
def decryptOps (nr : Nat) : List Instr :=
  .lds :: .ark (BitVec.ofNat 4 nr) :: (irounds (nr - 1) ++ ifinal ++ [.sto])

/-- The micro-operation a step executes (R163): LDS or FAIL when it accepts a START, none of this datapath in an ALT_REAL
build, else the one the sequencer issues; none in a step with reset. -/
def State.microOp (s : State) : Option Instr :=
  if s.turn.reset then none
  else if s.ph = .idle ∧ s.turn.cmd = some (encode .start) then
    match s.build.backend with
    | .soft => some .lds
    | .altStub => some .fail
    | .altReal => none
  else
    match decode .micro s.sequencerWord with
    | .ok i => some i
    | .error _ => none

/-- The micro-operations of the next `n` steps, in order (R91 "trace"), shorter if the machine stops. -/
def microTrace : Nat → State → List (Option Instr)
  | 0, _ => []
  | n + 1, s =>
    match step s with
    | .next t => s.microOp :: microTrace n t
    | .fault _ => []
    | .refused _ => []

/-- The round-key index of an ARK in a trace. -/
def arkIndex : Option Instr → Option Nat
  | some (.ark k) => some k.toNat
  | some .cnop | some .start | some .nop | some .lds | some .isr | some .isb | some .imc | some .sto | some .fail => none
  | none => none

/-- `n`, `n - 1`, ..., 0: the order in which an operation reads the round keys (R61). -/
def countdown : Nat → List Nat
  | 0 => [0]
  | n + 1 => (n + 1) :: countdown n

/-- Reads of `INV_SBOX` that an operation makes (R56). -/
def sboxReads : Instr → Nat
  | .isb => 16
  | .cnop | .start | .nop | .lds | .ark _ | .isr | .imc | .sto | .fail => 0

/-- Reads of each `GMUL` table that an operation makes (R56). -/
def gmulReads : Instr → Nat
  | .imc => 16
  | .cnop | .start | .nop | .lds | .ark _ | .isr | .isb | .sto | .fail => 0

/-- Bytes of `RK` that an operation reads (R56). -/
def keyBytesRead : Instr → Nat
  | .ark _ => 16
  | .cnop | .start | .nop | .lds | .isr | .isb | .imc | .sto | .fail => 0

end Sys2Proof.Machine
end

