-- ==== Sys2Proof/Safety.lean ====
section
/-! DEFINITION. What a safe run is, in the terms statements use: the invariant of the machine, the duties of the host
(70_reset_and_hazards.md R243, R250 to R254) and the count of steps an operation still takes (45_sequencer.md R170). -/

namespace Sys2Proof.Machine

/-- Where `RND` may stand in each phase (R24, R163). -/
def roundFits (s : State) : Prop :=
  match s.ph with
  | .idle => s.rnd = 0
  | .ark => s.rnd ≤ s.nrl
  | .isr => s.rnd < s.nrl
  | .isb => s.rnd < s.nrl
  | .imc => 0 < s.rnd ∧ s.rnd < s.nrl
  | .store => s.rnd = 0

/-- The invariant of the machine: it holds after reset and every step keeps it. -/
structure State.Inv (s : State) : Prop where
  /-- The shared storage is in its canonical form. -/
  memWf : Memory.wf s.mem
  /-- `NRL` holds a number of rounds, or 0 before the first operation (R25, R45). -/
  rounds : s.nrl = 0 ∨ s.nrl = 10 ∨ s.nrl = 12 ∨ s.nrl = 14
  /-- `BUSY` is 1 exactly while a software operation runs (R26). -/
  busyIff : s.busy = true ↔ s.ph ≠ .idle
  /-- `S` is valid exactly while a software operation runs (R22). -/
  matrixIff : s.sMat.isSome = true ↔ s.ph ≠ .idle
  /-- A software operation runs only in a SOFT build, with a latched round count and `RESULT` NONE (R161, R190). -/
  running : s.ph ≠ .idle → s.build.backend = .soft ∧ s.nrl ≠ 0 ∧ s.result = .none
  /-- The round counter fits the phase (R24, R163). -/
  round : roundFits s
  /-- An alternate operation is in flight only in an ALT_REAL build, and `RESULT` is then NONE (R86, R193). -/
  altBuild : s.alt.isSome = true → s.build.backend = .altReal ∧ s.result = .none
  /-- In a SOFT build the failure is never reported (R190). -/
  softResult : s.build.backend = .soft → s.result ≠ .featureUnsupported
  /-- In an ALT_STUB build OK is never reported (R190). -/
  stubResult : s.build.backend = .altStub → s.result ≠ .ok
  /-- An alternate operation that is to fail is as far from its end as from the step of a failure (R195). -/
  altFailTime : ∀ op, s.alt = some op → op.plain = none → op.failIn = some op.left

/-- What must be in place before START (R243, R250): `KL`, the input and every round key of the schedule in use. -/
structure State.Ready (s : State) (kl : KeyLen) (rk : Nat → Block) (inp : Block) : Prop where
  keyLen : s.readKl = .ok kl
  input : s.readBlock .inp 0 = .ok inp
  schedule : ∀ k, k ≤ keyLenRounds kl → s.readBlock .rk (roundKeyIndex k) = .ok (rk k)

/-- A turn in which the host does nothing. -/
def HostTurn.quiet (t : HostTurn) : Prop := t = {}

/-- A turn that keeps the host's duties while an operation of `nr` rounds runs (R171): no reset, no reserved command, no
write to the schedule in use; `IN`, `KL`, `OUT` may be written and CNOP and START commanded. -/
def HostTurn.harmless (nr : Nat) (t : HostTurn) : Prop :=
  t.reset = false ∧ (t.cmd = none ∨ t.cmd = some (encode .cnop) ∨ t.cmd = some (encode .start)) ∧
    ∀ w ∈ t.writes, hitsSchedule nr w = false

/-- The turn in which the host writes START and nothing else. -/
def startTurn : HostTurn := { cmd := some (encode .start) }

/-- The steps a software operation still takes, the STO step included (R163, R170): 4 for each full round still to come,
and the rest of the round under way. -/
def State.stepsLeft (s : State) : Nat :=
  match s.ph with
  | .idle => 0
  | .ark => if s.rnd = s.nrl then 4 * s.rnd.toNat + 1 else 4 * s.rnd.toNat + 2
  | .isr => 4 * s.rnd.toNat + 4
  | .isb => 4 * s.rnd.toNat + 3
  | .imc => 4 * s.rnd.toNat + 1
  | .store => 1

/-- Whether a location is one of the 16 bytes of `OUT`. -/
def State.inOut (s : State) (a : Nat) : Prop := s.locate .out 0 ≤ a ∧ a < s.locate .out 0 + 16

end Sys2Proof.Machine
end

