-- ==== Sys2Proof/Certificates/Slice0/Obligations.lean ====
section
/-! DEFINITION. The statements about the model. Each docstring names the rule of spec/ it says, or says that a clause is the
model's own choice and names its log entry. -/

open Sys2Proof Sys2Proof.Machine

/-! ## Encodings -/

/-- R81, R82, R84, R89: a word of a format decodes to an operation exactly when it is that operation's word, the operation
belongs to the format, and its word is not reserved. Both round trips follow. -/
def Obligations.DecodeAndEncodeAgree : Prop :=
  ∀ (f : Format) (w : Byte) (i : Instr),
    decode f w = .ok i ↔ i.format = f ∧ encode i = w ∧ i.wellFormed = true

/-- R84: every row of the opcode map decodes to its operation. -/
def Obligations.OpcodeMapRowsDecode : Prop :=
  decode .command 0x00 = .ok .cnop ∧ decode .command 0x01 = .ok .start ∧
  decode .micro 0x00 = .ok .nop ∧ decode .micro 0x20 = .ok .lds ∧
  (∀ k : BitVec 4, k.toNat ≤ 14 → decode .micro (0x40 + k.zeroExtend 8) = .ok (.ark k)) ∧
  decode .micro 0x60 = .ok .isr ∧ decode .micro 0x80 = .ok .isb ∧ decode .micro 0xA0 = .ok .imc ∧
  decode .micro 0xC0 = .ok .sto ∧ decode .micro 0xE0 = .ok .fail

/-- R81, R82, R89: the reserved words, each rejected by name. -/
def Obligations.ReservedWordsAreRejected : Prop :=
  (∀ w : Byte, 2 ≤ w.toNat → decode .command w = .error (.reservedCommand w)) ∧
  (∀ w : Byte, w.getLsbD 4 = true → decode .micro w = .error (.reservedZ w)) ∧
  (∀ w : Byte, w.getLsbD 4 = false → w.toNat / 32 ≠ 2 → w.toNat % 16 ≠ 0 → decode .micro w = .error (.strayK w)) ∧
  decode .micro 0x4F = .error (.arkIndex15 0x4F)

/-! ## What one step runs -/

/-- R163, R67: in a step without a command and without reset the sequencer's word is decoded and that operation is executed,
after the host's writes; the word is that of the phase: NOP, ARK `RND`, ISR, ISB, IMC, STO. With no operation handed to an
alternate backend the step is that and nothing else. The model's own choice (log 12): with one in flight, the alternate
backend has its step after it. -/
def Obligations.StepRunsTheIssuedMicroOperation : Prop :=
  (∀ (s : State) (i : Instr), placeLegal s.build.place = true → s.turn.reset = false → s.turn.cmd = none →
    decode .micro s.sequencerWord = .ok i → i.wellFormed = true →
    (s.alt = none → step s = exec i s.afterHostWrites) ∧
      step s = andThen (exec i s.afterHostWrites) fun t => .next t.altTick) ∧
  ∀ s : State,
    (s.ph = .idle → decode .micro s.sequencerWord = .ok .nop) ∧
    (s.ph = .ark → s.rnd.toNat ≤ 14 → decode .micro s.sequencerWord = .ok (.ark s.rnd)) ∧
    (s.ph = .isr → decode .micro s.sequencerWord = .ok .isr) ∧
    (s.ph = .isb → decode .micro s.sequencerWord = .ok .isb) ∧
    (s.ph = .imc → decode .micro s.sequencerWord = .ok .imc) ∧
    (s.ph = .store → decode .micro s.sequencerWord = .ok .sto)

/-- R161: in a step in which the host writes START and the sequencer is idle, START is executed, after the host's writes; in
a SOFT or ALT_STUB build the step is that and nothing else. The model's own choice (log 12): in an ALT_REAL build the
alternate backend has its first step in the START step already. -/
def Obligations.StepRunsAnAcceptedStart : Prop :=
  ∀ s : State, placeLegal s.build.place = true → s.turn.reset = false → s.turn.cmd = some 0x01 → s.ph = .idle →
    (s.build.backend ≠ .altReal → s.alt = none → step s = exec .start s.afterHostWrites) ∧
      step s = andThen (exec .start s.afterHostWrites) fun t => .next t.altTick

/-- R162, R169: a CNOP in any phase, and a START while an operation runs, leave the step what it is without them: the
command is lost, not queued. -/
def Obligations.CommandsWithoutEffectAreLost : Prop :=
  ∀ s : State, (s.turn.cmd = some 0x00 ∨ s.turn.cmd = some 0x01 ∧ s.ph ≠ .idle) →
    step s = step { s with host := { s.turn with cmd := none } :: s.host.tail }

/-- R89, U6, D7 ("a model refuses them"; log 7): a reserved command word is refused. -/
def Obligations.ReservedCommandIsRefused : Prop :=
  ∀ (s : State) (w : Byte), placeLegal s.build.place = true → s.turn.reset = false → s.turn.cmd = some w →
    2 ≤ w.toNat → step s = .refused (.reservedWord (.reservedCommand w))

/-- U5 (log 4): in a placement in which OUT overlaps RK or KL no step is taken. -/
def Obligations.OutOverTheContextIsRefused : Prop :=
  ∀ (s : State) (i j : Nat), i < 16 →
    (j < 240 ∧ s.locate .out i = s.locate .rk j ∨ s.locate .out i = s.locate .kl 0) →
    step s = .refused .overlappingPlacement

/-- R59, R60: no overlap of IN with OUT, whole or partial, is refused: as long as both stay clear of RK and KL and those of
each other, the placement is legal. -/
def Obligations.InOverOutIsLegal : Prop :=
  ∀ p : Placement,
    (∀ i j : Nat, i < 16 → j < 240 → p.out + i ≠ p.rk + j ∧ p.inp + i ≠ p.rk + j) →
    (∀ i : Nat, i < 16 → p.out + i ≠ p.kl ∧ p.inp + i ≠ p.kl) → (∀ j : Nat, j < 240 → p.rk + j ≠ p.kl) →
    placeLegal p = true

/-! ## Reset -/

/-- R240: reset wins over any command and any micro-operation of its step; PH, RND, NRL, BUSY, RESULT and S take their reset
values; KL, RK, IN, OUT and the build are not written by it: with no host write in the turn the storage is as before. The
model's own inferences: an alternate operation in flight is abandoned (log 16), and host writes of the turn land (log 27). -/
def Obligations.ResetWinsOverEverything : Prop :=
  ∀ s : State, placeLegal s.build.place = true → s.turn.reset = true →
    ∃ t, step s = .next t ∧ t.ph = .idle ∧ t.rnd = 0 ∧ t.nrl = 0 ∧ t.busy = false ∧ t.result = .none ∧ t.sMat = none ∧
      t.build = s.build ∧ t.alt = none ∧ t.mem = s.afterHostWrites.mem ∧ (s.turn.writes = [] → t.mem = s.mem)

/-- R45: the state after reset. No buffer byte has a value and no command is pending. The build and the idle host are the
model's choice (log 4, log 5, log 24) and are not said here, but for the empty list of turns. -/
def Obligations.StateAfterReset : Prop :=
  State.reset.ph = .idle ∧ State.reset.rnd = 0 ∧ State.reset.nrl = 0 ∧ State.reset.busy = false ∧
  State.reset.result = .none ∧ State.reset.sMat = none ∧ State.reset.status = 0x00 ∧ State.reset.turn.cmd = none ∧
  ∀ a, memRead State.reset.mem a = none

/-! ## START, CNOP, NOP -/

/-- R161, SOFT branch: with KL and IN written and KL not 3, START completes: NRL and RND take nr(KL), S takes IN, RESULT
becomes NONE, BUSY 1, PH ARK. Nothing else changes, but for the model's mark of a written schedule (log 11). -/
def Obligations.StartBeginsASoftOperation : Prop :=
  ∀ (s : State) (v : Byte) (kl : KeyLen) (inp : Block), s.ph = .idle → s.build.backend = .soft →
    memRead s.mem (s.locate .kl 0) = some v → v.toNat % 4 = (keyLenCode kl).toNat →
    (∀ i (hi : i < 16), memRead s.mem (s.locate .inp i) = some inp[i]) →
    exec .start s = .next
      { s with
        sMat := some inp, ph := .ark, rnd := BitVec.ofNat 4 (keyLenRounds kl), nrl := BitVec.ofNat 4 (keyLenRounds kl)
        busy := true, result := .none, rkDirty := false }

/-- U1, U2, R250, D26: where a START is outside its contract the model faults: on a KL never written, on KL = 3, on a byte of
IN never written. For SOFT the spec says so; that START faults so in an ALT_REAL build, and there also on a byte of the
schedule in use never written, is the model's inference (log 10, log 14). (In a SOFT build it is ARK that reads RK: ArkStops.
In an ALT_STUB build there is no such fault: StubStartAlwaysFails.) -/
def Obligations.StartOutsideItsContractFaults : Prop :=
  ∀ s : State, s.ph = .idle → (s.build.backend = .soft ∨ s.build.backend = .altReal ∧ s.alt = none) →
    (memRead s.mem (s.locate .kl 0) = none → exec .start s = .fault (.neverWritten .kl)) ∧
    (∀ v, memRead s.mem (s.locate .kl 0) = some v → v.toNat % 4 = 3 → exec .start s = .fault .reservedKeyLength) ∧
    (∀ v i, memRead s.mem (s.locate .kl 0) = some v → v.toNat % 4 ≠ 3 → i < 16 →
      memRead s.mem (s.locate .inp i) = none → exec .start s = .fault (.neverWritten .inp)) ∧
    (∀ (v : Byte) (kl : KeyLen) (j : Nat), s.build.backend = .altReal → memRead s.mem (s.locate .kl 0) = some v →
      v.toNat % 4 = (keyLenCode kl).toNat → (∀ i, i < 16 → (memRead s.mem (s.locate .inp i)).isSome = true) →
      j < 16 * (keyLenRounds kl + 1) → memRead s.mem (s.locate .rk j) = none →
      exec .start s = .fault (.neverWritten .rk))

/-- R169 and R254: a START while a software operation runs changes nothing. DEDUCED (log 13): nor does one while an
alternate operation is in flight. -/
def Obligations.StartWhileAnOperationRunsIsIgnored : Prop :=
  ∀ s : State, (s.ph ≠ .idle ∨ s.build.backend = .altReal ∧ s.alt.isSome = true) → exec .start s = .next s

/-- R162: CNOP and NOP complete in every state and change nothing. -/
def Obligations.CnopAndNopChangeNothing : Prop :=
  ∀ s : State, exec .cnop s = .next s ∧ exec .nop s = .next s

/-! ## The alternate backends -/

/-- R191: FAIL completes in every state; RESULT becomes FEATURE_UNSUPPORTED and nothing else changes. -/
def Obligations.FailReportsUnsupported : Prop :=
  ∀ s : State, exec .fail s = .next { s with result := .featureUnsupported }

/-- R192, R191, R216 b: in an ALT_STUB build the step of an accepted START, for every content of KL, RK, IN and OUT, written
or not, and whatever happened before, has exactly the effect of FAIL. -/
def Obligations.StubStartAlwaysFails : Prop :=
  ∀ s : State, placeLegal s.build.place = true → s.turn.reset = false → s.turn.cmd = some 0x01 → s.ph = .idle →
    s.build.backend = .altStub → s.alt = none →
    step s = exec .fail s.afterHostWrites ∧
      step s = .next { s.afterHostWrites with result := .featureUnsupported }

/-- R161, R193 with R43 and R86: in an ALT_REAL build START completes by handing the operation over; what it will end as is
fixed by KL, RK and IN as they stand, by way of ALT_OK; RESULT is NONE meanwhile. That a handed-over operation is counted
down in State, and the counter of draws, are the model's (log 12, log 24). -/
def Obligations.StartHandsOverToTheAlternateBackend : Prop :=
  ∀ (s : State) (kl : KeyLen) (rk : Nat → Block) (inp : Block), s.ph = .idle → s.build.backend = .altReal →
    s.alt = none → s.Ready kl rk inp →
    ∃ op, exec .start s = .next { s with alt := some op, result := .none, draws := s.draws + 1 } ∧
      op.rounds = keyLenRounds kl ∧ op.dirty = false ∧
      op.plain =
        (if Config.altOk kl ((List.range (keyLenRounds kl + 1)).map rk) inp = true
          then some (invCipher rk (keyLenRounds kl) inp) else none) ∧
      (op.plain = none → op.left = Config.altFailSteps) ∧ op.failIn = some Config.altFailSteps

/-- R193: with an idle host an operation of a real alternate backend ends after a finite number of steps, in exactly one of
two ways, chosen by ALT_OK: OUT is the plaintext and RESULT is OK, from one and the same step on; or RESULT is
FEATURE_UNSUPPORTED and the storage is untouched. Until then RESULT is NONE and the storage is untouched. -/
def Obligations.AlternateOperationEndsInOneOfTwoWays : Prop :=
  ∀ (s : State) (kl : KeyLen) (rk : Nat → Block) (inp : Block), placeLegal s.build.place = true →
    s.host = [startTurn] → s.ph = .idle → s.build.backend = .altReal → s.alt = none → s.Ready kl rk inp →
    ∃ n t, 1 ≤ n ∧ Host.Core.run core n s = .next t ∧ t.alt = none ∧
      (∀ m, 1 ≤ m → m < n → ∃ u, Host.Core.run core m s = .next u ∧ u.result = .none ∧ u.mem = s.mem) ∧
      (Config.altOk kl ((List.range (keyLenRounds kl + 1)).map rk) inp = true →
        t.result = .ok ∧
        (∀ i (hi : i < 16), memRead t.mem (s.locate .out i) = some (invCipher rk (keyLenRounds kl) inp)[i]) ∧
        ∀ a, ¬ s.inOut a → memRead t.mem a = memRead s.mem a) ∧
      (Config.altOk kl ((List.range (keyLenRounds kl + 1)).map rk) inp = false →
        t.result = .featureUnsupported ∧ t.mem = s.mem)

/-- R193, R195, with any host that neither resets nor writes a reserved command, and may write the schedule in use: an
operation of a real alternate backend ends after a finite number of steps, in success or in the failure; the failure comes a
number of steps after START that depends on nothing the host can write, not on KL, RK or IN as they stood at START and not on
a later write (U3 frees the result, not this time), and the step that reports it writes nothing to the storage. So no two
failures can be told apart by their time. That the operation is held in State and ends by a count is the model's (log 12,
log 15). -/
def Obligations.AlternateFailuresTakeTheSameTime : Prop :=
  ∀ (s : State) (first : HostTurn) (turns : List HostTurn) (kl : KeyLen) (rk : Nat → Block) (inp : Block),
    placeLegal s.build.place = true → s.host = first :: turns → first.cmd = some (encode .start) →
    (∀ u ∈ first :: turns, u.reset = false ∧
      (u.cmd = none ∨ u.cmd = some (encode .cnop) ∨ u.cmd = some (encode .start))) →
    s.ph = .idle → s.build.backend = .altReal → s.alt = none → s.afterHostWrites.Ready kl rk inp →
    ∃ n u t, Host.Core.run core n s = .next u ∧ Host.Core.run core (n + 1) s = .next t ∧ t.alt = none ∧
      (∀ m, 1 ≤ m → m ≤ n → ∃ v, Host.Core.run core m s = .next v ∧ v.alt.isSome = true ∧ v.result = .none) ∧
      (t.result = .ok ∨ t.result = .featureUnsupported ∧ n = Config.altFailSteps ∧ t.mem = u.afterHostWrites.mem)

/-! ## LDS and STO -/

/-- R100, R52: with IN written LDS completes; byte i of IN becomes S[i]; no flag and nothing else changes. -/
def Obligations.LdsCopiesTheInput : Prop :=
  ∀ (s : State) (inp : Block), (∀ i (hi : i < 16), memRead s.mem (s.locate .inp i) = some inp[i]) →
    exec .lds s = .next { s with sMat := some inp }

/-- R250, D26: LDS with a byte of IN that nothing has written faults. -/
def Obligations.LdsOfAnUnwrittenInputFaults : Prop :=
  ∀ (s : State) (i : Nat), i < 16 → memRead s.mem (s.locate .inp i) = none →
    exec .lds s = .fault (.neverWritten .inp)

/-- R101, R57: with S valid STO completes; the 16 bytes of OUT are S and every other byte of the storage is as before;
RESULT is OK, BUSY 0, PH IDLE, S invalid; RND, NRL and everything else keep their values. -/
def Obligations.StoWritesTheOutputWhole : Prop :=
  ∀ (s : State) (b : Block), s.sMat = some b →
    ∃ t, exec .sto s = .next t ∧
      (∀ i (hi : i < 16), memRead t.mem (s.locate .out i) = some b[i]) ∧
      (∀ a, ¬ s.inOut a → memRead t.mem a = memRead s.mem a) ∧
      t.result = .ok ∧ t.busy = false ∧ t.ph = .idle ∧ t.sMat = none ∧
      t.rnd = s.rnd ∧ t.nrl = s.nrl ∧ t.build = s.build ∧ t.alt = s.alt ∧ t.rkDirty = s.rkDirty ∧
      t.draws = s.draws ∧ t.host = s.host

/-! ## ARK, ISR, ISB, IMC -/

/-- R110, R83, R53, R163: with k at most NRL and 14, S valid, and the 16 bytes of round key k at RK[16k + j] written and not
rewritten during the operation, ARK k completes: byte j of S is exclusive-ored with byte j of the round key, and RND and PH
move as the next-state table says. Nothing else changes. -/
def Obligations.ArkAddsTheRoundKey : Prop :=
  ∀ (s : State) (k : BitVec 4) (b key : Block), k ≤ s.nrl → k.toNat ≤ 14 → s.rkDirty = false → s.sMat = some b →
    (∀ j (hj : j < 16), memRead s.mem (s.locate .rk (16 * k.toNat + j)) = some key[j]) →
    exec (.ark k) s = .next
      { s with
        sMat := some (Vector.ofFn fun j => b[j.val] ^^^ key[j.val])
        rnd := if s.rnd = s.nrl then s.rnd - 1 else s.rnd
        ph := if s.rnd = s.nrl then .isr else if s.rnd = 0 then .store else .imc }

/-- U3, D23 (log 11): after a write to the schedule in use ARK completes with a round key that is any value (the free value
of this draw), and moves the sequencer as ever. -/
def Obligations.ArkOnAnUnstableScheduleUsesAnyKey : Prop :=
  ∀ (s : State) (k : BitVec 4) (b : Block), k ≤ s.nrl → s.rkDirty = true → s.sMat = some b →
    exec (.ark k) s = .next
      { s with
        sMat := some (xorBlock b (Config.unstableRoundKey s.draws))
        rnd := if s.rnd = s.nrl then s.rnd - 1 else s.rnd
        ph := if s.rnd = s.nrl then .isr else if s.rnd = 0 then .store else .imc
        draws := s.draws + 1 }

/-- Where ARK stops. R89: an index above NRL is refused. R250: a byte of the round key that nothing has written is a fault.
The model's own inferences: an invalid S is a fault once the round key is read (log 1: R22 says that it is never read, not
that a read faults); index 15, whose key would lie outside RK, is a fault where NRL lets it through, which no run does
(log 18). -/
def Obligations.ArkStops : Prop :=
  ∀ (s : State) (k : BitVec 4),
    (s.nrl < k → exec (.ark k) s = .refused (.roundKeyBeyondSchedule k)) ∧
    (∀ j, k ≤ s.nrl → k.toNat ≤ 14 → s.rkDirty = false → j < 16 →
      memRead s.mem (s.locate .rk (16 * k.toNat + j)) = none → exec (.ark k) s = .fault (.neverWritten .rk)) ∧
    (k ≤ s.nrl → k = 15 → s.rkDirty = false → exec (.ark k) s = .fault (.outsideSpace .rk)) ∧
    (k ≤ s.nrl → s.sMat = none →
      (s.rkDirty = true ∨
        k.toNat ≤ 14 ∧ ∀ j, j < 16 → (memRead s.mem (s.locate .rk (16 * k.toNat + j))).isSome = true) →
      exec (.ark k) s = .fault .invalidMatrix)

/-- R121: with S valid ISR completes; new S[i] is old S[src(i)] with src(i) = (i - 4 (i mod 4)) mod 16 = (13 i) mod 16, old
S[i] goes to new S[(5 i) mod 16], and the state 00 01 .. 0f becomes the one printed. (PH goes to ISB, R120, and nothing else
changes.) -/
def Obligations.IsrMovesBytesByTheIndexTable : Prop :=
  (∀ (s : State) (b : Block), s.sMat = some b →
    ∃ d : Block, exec .isr s = .next { s with sMat := some d, ph := .isb } ∧
      (∀ i (hi : i < 16), d[i] = b[(13 * i) % 16]'(Nat.mod_lt _ (by omega))) ∧
      (∀ i (hi : i < 16), (d[(5 * i) % 16]'(Nat.mod_lt _ (by omega))) = b[i])) ∧
  (∀ i : Nat, i < 16 → (i + 16 - 4 * (i % 4)) % 16 = (13 * i) % 16) ∧
  invShiftRows (blockOf 0x000102030405060708090a0b0c0d0e0f) = blockOf 0x000d0a0704010e0b0805020f0c090603

/-- R130: with S valid ISB completes; every byte is replaced by its entry of the inverse S-box; PH goes to ARK; nothing else
changes. -/
def Obligations.IsbSubstitutesEveryByte : Prop :=
  ∀ (s : State) (b : Block), s.sMat = some b →
    exec .isb s = .next { s with sMat := some (Vector.ofFn fun i => invSbox b[i.val]), ph := .ark }

/-- R143, R140 to R142: with S valid IMC completes; each column is multiplied by the matrix 0E 0B 0D 09 / 09 0E 0B 0D /
0D 09 0E 0B / 0B 0D 09 0E over GF(2^8), the product taken by formula and not by table; RND goes down by one, PH to ISR;
nothing else changes. -/
def Obligations.ImcMultipliesByTheMatrix : Prop :=
  ∀ (s : State) (b : Block), s.sMat = some b →
    ∃ d : Block, exec .imc s = .next { s with sMat := some d, rnd := s.rnd - 1, ph := .isr } ∧
      ∀ (c : Fin 4) (r : Nat) (hr : r < 4), d[4 * c.val + r] = matrixByte invMixCoeff b c r

/-- The model's own form (log 1, DEDUCED) of R22, which says that an invalid S holds no value and is never read, and not that
a read of it faults: in the model ISR, ISB, IMC and STO fault on it, and so does ARK once its round key is read. In no run
does the fault arise, as R22 and U9 say (RunsNeverStopInside). -/
def Obligations.AnInvalidMatrixIsNeverUsed : Prop :=
  ∀ s : State, s.sMat = none →
    exec .isr s = .fault .invalidMatrix ∧ exec .isb s = .fault .invalidMatrix ∧
    exec .imc s = .fault .invalidMatrix ∧ exec .sto s = .fault .invalidMatrix ∧
    ∀ (k : BitVec 4) (r : Block × State), k ≤ s.nrl → s.readRoundKey k = .ok r →
      exec (.ark k) s = .fault .invalidMatrix

/-! ## What each instruction leaves alone -/

/-- R24 to R26, R30 to R32, R44, R57, R190: which instruction may write which register. RND: START, ARK, IMC. NRL: START.
BUSY: START, STO. RESULT: START, STO, FAIL. S: START, LDS, the transformations, STO. The storage: STO alone, and only the 16
bytes of OUT. The build, and the host's list of turns: none. -/
def Obligations.RegistersChangeOnlyByTheirInstructions : Prop :=
  ∀ (i : Instr) (s t : State), exec i s = .next t →
    t.build = s.build ∧ t.host = s.host ∧
    (i = .cnop ∨ i = .nop ∨ i = .lds ∨ i = .isr ∨ i = .isb ∨ i = .sto ∨ i = .fail → t.rnd = s.rnd) ∧
    (i ≠ .start → t.nrl = s.nrl ∧ t.alt = s.alt ∧ t.rkDirty = s.rkDirty) ∧
    (i ≠ .start → i ≠ .sto → t.busy = s.busy) ∧
    (i ≠ .start → i ≠ .sto → i ≠ .fail → t.result = s.result) ∧
    (i = .cnop ∨ i = .nop ∨ i = .fail → t.sMat = s.sMat ∧ t.ph = s.ph) ∧
    (i ≠ .sto → t.mem = s.mem) ∧
    ∀ a, ¬ s.inOut a → memRead t.mem a = memRead s.mem a

/-- R57: in a SOFT or ALT_STUB build with no host write in its turn, a step other than the one in phase STORE, and any step
with reset, leaves every byte of the storage as it was. -/
def Obligations.OnlyTheStoreStepWritesTheOutput : Prop :=
  ∀ s t : State, step s = .next t → s.turn.writes = [] → s.build.backend ≠ .altReal → s.alt = none →
    (s.ph ≠ .store ∨ s.turn.reset = true) → t.mem = s.mem

/-- R28, R190, R51: no step, whatever the host does in it, changes BACKEND or the placement. -/
def Obligations.TheBuildNeverChanges : Prop :=
  ∀ s t : State, step s = .next t → t.build = s.build

/-! ## Tables and algebra -/

/-- R142, R35 to R38: the four multiplication tables hold the products with 0x09, 0x0B, 0x0D and 0x0E. -/
def Obligations.TheGmulTablesAreProducts : Prop :=
  ∀ a : Byte, gmul9 a = gfMul a 0x09 ∧ gmulB a = gfMul a 0x0B ∧ gmulD a = gfMul a 0x0D ∧ gmulE a = gfMul a 0x0E

/-- R39, R34: the inverse S-box is the inverse affine map followed by the field inverse; it and the forward S-box undo each
other; it has no fixed point. -/
def Obligations.TheInverseSboxIsItsFormula : Prop :=
  ∀ y : Byte, invSbox y = gfInv (rotl y 1 ^^^ rotl y 3 ^^^ rotl y 6 ^^^ 0x05) ∧ invSbox (sbox y) = y ∧
    sbox (invSbox y) = y ∧ invSbox y ≠ y

/-- R111: (a) ARK with the same key twice restores S; (b) it is linear over exclusive-or; (c) it commutes with ISR up to a
permutation of the key and with IMC up to a transformation of the key. -/
def Obligations.AddRoundKeyProperties : Prop :=
  (∀ x k : Block, xorBlock (xorBlock x k) k = x) ∧
  (∀ a b k : Block, xorBlock (xorBlock a b) k = xorBlock (xorBlock a k) b) ∧
  (∀ x k : Block, invShiftRows (xorBlock x k) = xorBlock (invShiftRows x) (invShiftRows k)) ∧
  (∀ x k : Block, invMixColumns (xorBlock x k) = xorBlock (invMixColumns x) (invMixColumns k))

/-- R122: (a) ISR is one permutation of byte positions; (b) four applications restore the state, so three undo one; (c) ISR
and ISB commute. -/
def Obligations.InvShiftRowsProperties : Prop :=
  (∃ p : Equiv.Perm (Fin 16), ∀ (b : Block) (i : Fin 16), (invShiftRows b)[i.val] = b[(p i).val]) ∧
  (∀ b : Block, invShiftRows (invShiftRows (invShiftRows (invShiftRows b))) = b) ∧
  (∀ b : Block, shiftRows (invShiftRows b) = b ∧ invShiftRows (shiftRows b) = b) ∧
  (∀ b : Block, invSubBytes (invShiftRows b) = invShiftRows (invSubBytes b))

/-- R145: (a) IMC is linear and maps 0 to 0; (b) it is a bijection whose inverse is the forward MixColumns; (c) it does not
commute with ISR or ISB in general; (d) each column of the result depends on that column only, and each row of ISR's result
on that row only. -/
def Obligations.InvMixColumnsProperties : Prop :=
  (∀ a b : Block, invMixColumns (xorBlock a b) = xorBlock (invMixColumns a) (invMixColumns b)) ∧
  invMixColumns (blockOf 0) = blockOf 0 ∧
  Function.Bijective invMixColumns ∧
  (∀ b : Block, mixColumns (invMixColumns b) = b ∧ invMixColumns (mixColumns b) = b) ∧
  (∃ b : Block, invMixColumns (invShiftRows b) ≠ invShiftRows (invMixColumns b)) ∧
  (∃ b : Block, invMixColumns (invSubBytes b) ≠ invSubBytes (invMixColumns b)) ∧
  (∀ (a b : Block) (c : Fin 4), (∀ r (hr : r < 4), a[4 * c.val + r] = b[4 * c.val + r]) →
    ∀ r (hr : r < 4), (invMixColumns a)[4 * c.val + r] = (invMixColumns b)[4 * c.val + r]) ∧
  (∀ (a b : Block) (r : Fin 4), (∀ c (hc : c < 4), a[r.val + 4 * c] = b[r.val + 4 * c]) →
    ∀ c (hc : c < 4), (invShiftRows a)[r.val + 4 * c] = (invShiftRows b)[r.val + 4 * c])

/-- R167 a and e, for every schedule and every number of rounds from 1 on, so for 10, 12 and 14 and every expanded key: the
inverse cipher undoes the forward cipher, and the forward cipher the inverse. The forward cipher is the spec's inverse
transformations undone in reverse order; the block does not contain it. -/
def Obligations.DecryptUndoesEncrypt : Prop :=
  ∀ (rk : Nat → Block) (nr : Nat) (p : Block), 1 ≤ nr →
    invCipher rk nr (forwardCipher rk nr p) = p ∧ forwardCipher rk nr (invCipher rk nr p) = p

/-! ## The whole operation -/

/-- R92, R165: an accepted START in a SOFT build produces exactly the micro-operation sequence DECRYPT nr(KL), which has
4 nr + 2 micro-operations, and the block is then idle; whatever the host does meanwhile, as long as it keeps its duties
(R171: no reset, no reserved command, no write to the schedule in use). -/
def Obligations.AnOperationRunsDecrypt : Prop :=
  ∀ (s : State) (first : HostTurn) (turns : List HostTurn) (kl : KeyLen) (rk : Nat → Block) (inp : Block),
    placeLegal s.build.place = true → s.host = first :: turns → first.reset = false →
    first.cmd = some (encode .start) → turns.length = 4 * keyLenRounds kl + 1 →
    (∀ t ∈ turns, t.harmless (keyLenRounds kl)) → s.ph = .idle → s.build.backend = .soft → s.alt = none →
    s.afterHostWrites.Ready kl rk inp →
    microTrace (4 * keyLenRounds kl + 2) s = (decryptOps (keyLenRounds kl)).map some ∧
      (decryptOps (keyLenRounds kl)).length = 4 * keyLenRounds kl + 2 ∧
      ∃ t, Host.Core.run core (4 * keyLenRounds kl + 2) s = .next t ∧ t.ph = .idle

/-- R165: what the machine executes in an operation, counted in its trace: 1 LDS, nr + 1 ARK with the round keys nr down to 0
in that order (R61), nr ISR, nr ISB, nr - 1 IMC, 1 STO, 4 nr + 2 steps in all. The reads of the tables and of RK are those of
the micro-operations executed, at the 16 a piece that R56 gives. -/
def Obligations.CountsPerOperation : Prop :=
  ∀ (s : State) (first : HostTurn) (turns : List HostTurn) (kl : KeyLen) (rk : Nat → Block) (inp : Block),
    placeLegal s.build.place = true → s.host = first :: turns → first.reset = false →
    first.cmd = some (encode .start) → turns.length = 4 * keyLenRounds kl + 1 →
    (∀ t ∈ turns, t.harmless (keyLenRounds kl)) → s.ph = .idle → s.build.backend = .soft → s.alt = none →
    s.afterHostWrites.Ready kl rk inp →
    let nr := keyLenRounds kl
    let trace := microTrace (4 * nr + 2) s
    trace.length = 4 * nr + 2 ∧ trace.count (some .lds) = 1 ∧ trace.filterMap arkIndex = countdown nr ∧
      (trace.filterMap arkIndex).length = nr + 1 ∧ trace.count (some .isr) = nr ∧ trace.count (some .isb) = nr ∧
      trace.count (some .imc) = nr - 1 ∧ trace.count (some .sto) = 1 ∧
      ((trace.filterMap id).map sboxReads).sum = 16 * nr ∧
      ((trace.filterMap id).map gmulReads).sum = 16 * (nr - 1) ∧
      ((trace.filterMap id).map keyBytesRead).sum = 16 * (nr + 1)

/-- R166, R170: an operation started in a SOFT build, with an idle host after START, ends 4 nr(KL) + 2 steps after it began
with OUT = InvCipher(RK, nr(KL), IN), RESULT = OK, BUSY = 0, PH = IDLE; every byte of the storage outside OUT, and the
build, are unchanged. -/
def Obligations.AnOperationComputesInvCipher : Prop :=
  ∀ (s : State) (kl : KeyLen) (rk : Nat → Block) (inp : Block), placeLegal s.build.place = true →
    s.host = [startTurn] → s.ph = .idle → s.build.backend = .soft → s.alt = none → s.Ready kl rk inp →
    ∃ t, Host.Core.run core (4 * keyLenRounds kl + 2) s = .next t ∧
      (∀ i (hi : i < 16), memRead t.mem (s.locate .out i) = some (invCipher rk (keyLenRounds kl) inp)[i]) ∧
      (∀ a, ¬ s.inOut a → memRead t.mem a = memRead s.mem a) ∧
      t.result = .ok ∧ t.busy = false ∧ t.ph = .idle ∧ t.sMat = none ∧ t.build = s.build

/-- R57, R64 b, R66: in every step of that operation before the last, STATUS reads 0x04 (BUSY, RESULT NONE) and no byte of
the storage has changed. -/
def Obligations.NothingShowsBeforeTheLastStep : Prop :=
  ∀ (s : State) (kl : KeyLen) (rk : Nat → Block) (inp : Block) (m : Nat), placeLegal s.build.place = true →
    s.host = [startTurn] → s.ph = .idle → s.build.backend = .soft → s.alt = none → s.Ready kl rk inp →
    1 ≤ m → m ≤ 4 * keyLenRounds kl + 1 →
    ∃ u, Host.Core.run core m s = .next u ∧ u.status = 0x04 ∧ u.mem = s.mem

/-- R64, R169, R171, R252: the result is the same when the host fills its buffers in the turn of START and, while the
operation runs, rewrites IN, KL, OUT and the unused end of RK as it likes and writes CNOP and START to CMD, as long as it
does not assert reset, write a reserved command or write the schedule in use. -/
def Obligations.AHarmlessHostCannotDisturbAnOperation : Prop :=
  ∀ (s : State) (first : HostTurn) (turns : List HostTurn) (kl : KeyLen) (rk : Nat → Block) (inp : Block),
    placeLegal s.build.place = true → s.host = first :: turns → first.reset = false →
    first.cmd = some (encode .start) → turns.length = 4 * keyLenRounds kl + 1 →
    (∀ t ∈ turns, t.harmless (keyLenRounds kl)) → s.ph = .idle → s.build.backend = .soft → s.alt = none →
    s.afterHostWrites.Ready kl rk inp →
    ∃ t, Host.Core.run core (4 * keyLenRounds kl + 2) s = .next t ∧
      (∀ i (hi : i < 16), memRead t.mem (s.locate .out i) = some (invCipher rk (keyLenRounds kl) inp)[i]) ∧
      t.result = .ok ∧ t.busy = false ∧ t.ph = .idle

/-- R59: with IN and OUT one buffer, after a successful operation the buffer holds the plaintext, and after a failed one it
still holds the ciphertext. -/
def Obligations.AliasedBuffersAreSupported : Prop :=
  (∀ (s : State) (kl : KeyLen) (rk : Nat → Block) (inp : Block), placeLegal s.build.place = true →
    s.build.place.out = s.build.place.inp → s.host = [startTurn] → s.ph = .idle → s.build.backend = .soft →
    s.alt = none → s.Ready kl rk inp →
    ∃ t, Host.Core.run core (4 * keyLenRounds kl + 2) s = .next t ∧ t.result = .ok ∧
      t.readBlock .inp 0 = .ok (invCipher rk (keyLenRounds kl) inp)) ∧
  (∀ (s : State) (inp : Block), placeLegal s.build.place = true → s.build.place.out = s.build.place.inp →
    s.host = [startTurn] → s.ph = .idle → s.build.backend = .altStub → s.alt = none →
    s.readBlock .inp 0 = .ok inp →
    ∃ t, step s = .next t ∧ t.result = .featureUnsupported ∧ t.readBlock .inp 0 = .ok inp)

/-! ## The machine as a whole -/

/-- The invariant holds right after reset. -/
def Obligations.InvAfterReset : Prop := State.reset.Inv

/-- R22 to R26, R163, R190 and the canonical form of the storage: every step, whatever the host does in it, keeps the
invariant. -/
def Obligations.EveryStepKeepsInv : Prop :=
  ∀ s t : State, s.Inv → step s = .next t → t.Inv

/-- R22, R55, R89: from a state that meets the invariant a step stops only because of what the host did: a buffer byte never
written, KL = 3, a reserved command or an overlapping placement. S is never read when invalid, no access leaves its space,
and the sequencer issues no reserved word and no ARK above NRL. -/
def Obligations.RunsNeverStopInside : Prop :=
  ∀ s : State, s.Inv →
    (∀ e, step s = .fault e → (∃ sp, e = .neverWritten sp) ∨ e = .reservedKeyLength) ∧
    (∀ e, step s = .refused e →
      e = .overlappingPlacement ∨ ∃ w, s.turn.cmd = some w ∧ e = .reservedWord (.reservedCommand w))

/-- R170: while a software operation runs every step without reset brings it one step nearer its end, which is at most
4 NRL + 1 steps away; when none is left the block is idle. -/
def Obligations.EveryStepBringsTheEndNearer : Prop :=
  ∀ s t : State, s.Inv → s.ph ≠ .idle → s.turn.reset = false → step s = .next t →
    t.stepsLeft + 1 = s.stepsLeft ∧ s.stepsLeft ≤ 4 * s.nrl.toNat + 1 ∧ (t.stepsLeft = 0 ↔ t.ph = .idle)

/-- R168: the sequence does not depend on data. Two SOFT machines with the same sequencer registers and the same host, whose
storage and S differ in any way but for the KL a START would read, issue the same micro-operation and go to the same
sequencer registers and STATUS. -/
def Obligations.TheSequenceDoesNotDependOnData : Prop :=
  ∀ s u s' u' : State, s.build = u.build → s.build.backend = .soft → s.host = u.host → s.ph = u.ph → s.rnd = u.rnd →
    s.nrl = u.nrl → s.busy = u.busy → s.result = u.result → s.alt = none → u.alt = none →
    s.afterHostWrites.readKl = u.afterHostWrites.readKl → step s = .next s' → step u = .next u' →
    s.microOp = u.microOp ∧ s'.ph = u'.ph ∧ s'.rnd = u'.rnd ∧ s'.nrl = u'.nrl ∧ s'.status = u'.status

/-- R43, R241: no operation depends on what earlier ones left. In a SOFT build START makes the same state whatever S, RND,
NRL, BUSY, RESULT (and the model's mark of a written schedule) were. -/
def Obligations.StartForgetsEarlierOperations : Prop :=
  ∀ (s t : State) (m : Option Block) (r n : BitVec 4) (b : Bool) (res : Result) (d : Bool), s.ph = .idle →
    s.build.backend = .soft → exec .start s = .next t →
    exec .start { s with sMat := m, rnd := r, nrl := n, busy := b, result := res, rkDirty := d } = .next t

/-! ## The host's ports -/

/-- R26, R28: STATUS and CFG as the host reads them. -/
def Obligations.StatusAndCfgRead : Prop :=
  ∀ s : State,
    s.status = (if s.busy = true then 0x04 else 0x00) +
      (match s.result with | .none => 0x00 | .ok => 0x01 | .featureUnsupported => 0x02) ∧
    s.cfg = (match s.build.backend with | .soft => 0x00 | .altStub => 0x01 | .altReal => 0x02)

/-- R44, R29, R171: what the host writes it reads back, bits 7:2 of KL apart, and every other location of the storage is as
before. -/
def Obligations.HostWritesReadBack : Prop :=
  ∀ s : State,
    (∀ v, (s.hostWrite (.kl v)).hostReadKl = some (v &&& 0x03)) ∧
    (∀ i v, (s.hostWrite (.rk i v)).hostReadRk i = some v) ∧
    (∀ i v, (s.hostWrite (.inp i v)).hostReadIn i = some v) ∧
    (∀ i v, (s.hostWrite (.out i v)).hostReadOut i = v) ∧
    ∀ w a, a ≠ (s.hostCell w).1 → memRead (s.hostWrite w).mem a = memRead s.mem a

/-- R44, R171, R252: a host write changes no register of the block; while a software operation runs it marks the schedule as
unstable exactly when it hits one of the first 16 (NRL + 1) bytes of RK (the mark is the model's, log 11). -/
def Obligations.HostWritesLeaveTheRegisters : Prop :=
  ∀ (s : State) (w : HostWrite),
    (s.hostWrite w).sMat = s.sMat ∧ (s.hostWrite w).ph = s.ph ∧ (s.hostWrite w).rnd = s.rnd ∧
    (s.hostWrite w).nrl = s.nrl ∧ (s.hostWrite w).status = s.status ∧ (s.hostWrite w).build = s.build ∧
    (s.ph ≠ .idle → s.rkDirty = false →
      ((s.hostWrite w).rkDirty = true ↔ ∃ i v, w = .rk i v ∧ i.val < 16 * (s.nrl.toNat + 1)))

/-- U10 (log 17): byte i of OUT before anyone has written it reads as a value nothing constrains, and a read of it does not
wait for a write. -/
def Obligations.AnUnwrittenOutputReadsAsAnyValue : Prop :=
  ∀ (s : State) (i : Fin 16), memRead s.mem (s.locate .out i.val) = none → s.hostReadOut i = Config.powerOnOut i.val
end

