-- ==== Sys2Proof/Laws/Field.lean ====
section
/-! SUPPORT. `gfInv` is the inverse R39 asks for. -/

namespace Sys2Proof.Machine

/-- `inv(0) = 0` and `a . inv(a) = 0x01` for every other byte (R39). -/
theorem gfInv_spec (a : Byte) : (a = 0 → gfInv a = 0) ∧ (a ≠ 0 → gfMul a (gfInv a) = 1) := by
  revert a; decide +kernel

end Sys2Proof.Machine
end

