-- ==== Sys2Proof/Laws/Memory.lean ====
section
/-! SUPPORT. The laws of the shared storage: a read after a write, the bytes a write leaves alone, the canonical form. -/

namespace Sys2Proof.Machine

/-- A read after a write gives the byte written, and every other location reads as before. -/
@[simp] theorem memRead_memWrite (m : Memory) (a : Nat) (v : Byte) (b : Nat) :
    memRead (memWrite m a v) b = if b = a then some v else memRead m b := by
  induction m with
  | nil => simp [memWrite, memRead]
  | cons c m ih =>
    obtain ⟨k, w⟩ := c
    unfold memWrite
    split
    · simp only [memRead]
    · split
      · subst_vars; simp only [memRead]; split <;> rfl
      · rename_i h1 h2
        simp only [memRead, ih]
        by_cases hb : b = k
        · simp [hb, Ne.symm h2]
        · simp [hb]

/-- The locations of a storage after a write are those before it and the one written. -/
theorem mem_memWrite {m : Memory} {a : Nat} {v : Byte} {c : Host.Cell} (h : c ∈ memWrite m a v) :
    c.1 = a ∨ c ∈ m := by
  induction m with
  | nil => simp [memWrite] at h; simp [h]
  | cons d m ih =>
    unfold memWrite at h
    split at h
    · rcases List.mem_cons.1 h with rfl | h
      · exact .inl rfl
      · exact .inr h
    · split at h
      · rcases List.mem_cons.1 h with rfl | h
        · exact .inl rfl
        · exact .inr (List.mem_cons_of_mem _ h)
      · rcases List.mem_cons.1 h with rfl | h
        · exact .inr (by simp)
        · exact (ih h).imp id (List.mem_cons_of_mem _)

/-- A write keeps the canonical form. -/
theorem memWrite_wf {m : Memory} (h : Memory.wf m) (a : Nat) (v : Byte) : Memory.wf (memWrite m a v) := by
  induction m with
  | nil => simp [memWrite, Memory.wf]
  | cons c m ih =>
    have hc := List.pairwise_cons.1 h
    unfold memWrite
    split
    · refine List.pairwise_cons.2 ⟨?_, h⟩
      intro x hx
      rcases List.mem_cons.1 hx with rfl | hx
      · assumption
      · exact Nat.lt_trans ‹_› (hc.1 x hx)
    · split
      · subst_vars; exact List.pairwise_cons.2 ⟨hc.1, hc.2⟩
      · refine List.pairwise_cons.2 ⟨?_, ih hc.2⟩
        intro x hx
        rcases mem_memWrite hx with h' | h'
        · simp only [h']; omega
        · exact hc.1 x h'

/-- What a storage reads as after bytes were written from `a` on. -/
theorem memRead_memWriteBytes (vs : List Byte) (m : Memory) (a b : Nat) :
    memRead (memWriteBytes m a vs) b = if a ≤ b ∧ b < a + vs.length then vs[b - a]? else memRead m b := by
  induction vs generalizing m a with
  | nil => simp [memWriteBytes]
  | cons v vs ih =>
    simp only [memWriteBytes, ih, memRead_memWrite, List.length_cons]
    rcases Nat.lt_trichotomy b a with h | rfl | h
    · rw [if_neg (by omega), if_neg (by omega), if_neg (by omega)]
    · rw [if_neg (by omega), if_pos rfl, if_pos (by omega)]; simp
    · obtain ⟨d, rfl⟩ : ∃ d, b = a + 1 + d := ⟨b - (a + 1), by omega⟩
      have e1 : a + 1 + d - (a + 1) = d := by omega
      have e2 : a + 1 + d - a = d + 1 := by omega
      by_cases hd : d < vs.length
      · rw [if_pos (by omega), if_pos (by omega), e1, e2]; simp
      · rw [if_neg (by omega), if_neg (by omega), if_neg (by omega)]

theorem memWriteBytes_wf (vs : List Byte) {m : Memory} (h : Memory.wf m) (a : Nat) :
    Memory.wf (memWriteBytes m a vs) := by
  induction vs generalizing m a with
  | nil => exact h
  | cons v vs ih => exact ih (memWrite_wf h a v) _

/-- Inside the block written, the byte of the block. -/
theorem memRead_memWriteBlock_inside (m : Memory) (a : Nat) (b : Block) (i : Nat) (hi : i < 16) :
    memRead (memWriteBlock m a b) (a + i) = some b[i] := by
  have e : a + i - a = i := by omega
  simp [memWriteBlock, memRead_memWriteBytes, e, hi]

/-- Outside the block written, what was there. -/
theorem memRead_memWriteBlock_outside (m : Memory) (a : Nat) (b : Block) (c : Nat) (hc : ¬(a ≤ c ∧ c < a + 16)) :
    memRead (memWriteBlock m a b) c = memRead m c := by
  simp only [memWriteBlock, memRead_memWriteBytes, Vector.length_toList, if_neg hc]

theorem memWriteBlock_wf {m : Memory} (h : Memory.wf m) (a : Nat) (b : Block) : Memory.wf (memWriteBlock m a b) :=
  memWriteBytes_wf _ h a

/-- A block is read exactly when each of its 16 bytes is. -/
theorem memReadBlock_eq_some_iff (m : Memory) (a : Nat) (b : Block) :
    memReadBlock m a = some b ↔ ∀ i (hi : i < 16), memRead m (a + i) = some b[i] := by
  constructor
  · intro h i hi
    unfold memReadBlock at h
    split at h
    · rename_i hall
      have hs := List.all_eq_true.1 hall i (by simpa using hi)
      obtain ⟨v, hv⟩ := Option.isSome_iff_exists.1 hs
      cases h
      simp [hv]
    · cases h
  · intro h
    have hall : ((List.range 16).all fun i => (memRead m (a + i)).isSome) = true := by
      rw [List.all_eq_true]
      intro i hi
      rw [h i (by simpa using hi)]
      rfl
    unfold memReadBlock
    rw [if_pos hall]
    congr 1
    ext i hi
    simp [h i hi]

/-- A block read needs only the 16 bytes read. -/
theorem memReadBlock_congr {m m' : Memory} {a : Nat} (h : ∀ i, i < 16 → memRead m (a + i) = memRead m' (a + i)) :
    memReadBlock m a = memReadBlock m' a := by
  apply Option.ext
  intro b
  rw [memReadBlock_eq_some_iff, memReadBlock_eq_some_iff]
  exact ⟨fun k i hi => (h i hi) ▸ k i hi, fun k i hi => (h i hi).symm ▸ k i hi⟩

/-- A location below every listed one has no value. -/
theorem memRead_none_of_lt {m : Memory} {a : Nat} (h : ∀ c ∈ m, a < c.1) : memRead m a = none := by
  induction m with
  | nil => rfl
  | cons c m ih =>
    have hc := h c (by simp)
    have : a ≠ c.1 := by omega
    simp only [memRead, if_neg this]
    exact ih fun d hd => h d (by simp [hd])

theorem mem_zeroCells {a n : Nat} {c : Host.Cell} (h : c ∈ zeroCells a n) : a ≤ c.1 ∧ c.1 < a + n := by
  induction n generalizing a with
  | zero => simp [zeroCells] at h
  | succ n ih =>
    rcases List.mem_cons.1 h with rfl | h
    · simp
    · have := ih h; omega

theorem zeroCells_wf (a n : Nat) : Memory.wf (zeroCells a n) := by
  induction n generalizing a with
  | zero => exact List.Pairwise.nil
  | succ n ih => exact List.pairwise_cons.2 ⟨fun c h => (mem_zeroCells h).1, ih (a + 1)⟩

/-- What filling lists: what was listed, and locations of the range filled. -/
theorem mem_fillUnwritten {m : Memory} {a n : Nat} {c : Host.Cell} (h : c ∈ fillUnwritten m a n) :
    c ∈ m ∨ a ≤ c.1 ∧ c.1 < a + n := by
  induction m generalizing a n with
  | nil => exact .inr (mem_zeroCells h)
  | cons d m ih =>
    unfold fillUnwritten at h
    split at h
    · rcases List.mem_cons.1 h with rfl | h
      · exact .inl (by simp)
      · exact (ih h).imp (List.mem_cons_of_mem _) id
    · rcases List.mem_append.1 h with h | h
      · have := mem_zeroCells h; omega
      · rcases List.mem_cons.1 h with rfl | h
        · exact .inl (by simp)
        · exact (ih h).imp (List.mem_cons_of_mem _) (by omega)

/-- Filling the bytes without a value keeps the canonical form. -/
theorem fillUnwritten_wf {m : Memory} (h : Memory.wf m) (a n : Nat) : Memory.wf (fillUnwritten m a n) := by
  induction m generalizing a n with
  | nil => exact zeroCells_wf a n
  | cons d m ih =>
    have hd := List.pairwise_cons.1 h
    unfold fillUnwritten
    split
    · refine List.pairwise_cons.2 ⟨fun c hc => ?_, ih hd.2 a n⟩
      rcases mem_fillUnwritten hc with h' | h'
      · exact hd.1 c h'
      · dsimp only; omega
    · refine List.pairwise_append.2 ⟨zeroCells_wf _ _, List.pairwise_cons.2 ⟨fun c hc => ?_, ih hd.2 _ _⟩, ?_⟩
      · rcases mem_fillUnwritten hc with h' | h'
        · exact hd.1 c h'
        · dsimp only; omega
      · intro x hx y hy
        have hx' := mem_zeroCells hx
        rcases List.mem_cons.1 hy with rfl | hy
        · dsimp only; omega
        · rcases mem_fillUnwritten hy with h' | h'
          · have := hd.1 y h'; omega
          · omega

/-- Two canonical storages that read alike everywhere are the same list. -/
theorem Memory.ext_of_wf {m m' : Memory} (h : Memory.wf m) (h' : Memory.wf m')
    (e : ∀ a, memRead m a = memRead m' a) : m = m' := by
  induction m generalizing m' with
  | nil =>
    cases m' with
    | nil => rfl
    | cons c m' => have := e c.1; simp [memRead] at this
  | cons c m ih =>
    have hc := List.pairwise_cons.1 h
    cases m' with
    | nil => have := e c.1; simp [memRead] at this
    | cons d m' =>
      have hd := List.pairwise_cons.1 h'
      have hkey : c.1 = d.1 := by
        rcases Nat.lt_trichotomy c.1 d.1 with hlt | heq | hgt
        · have h1 := e c.1
          rw [memRead_none_of_lt (m := d :: m') (a := c.1)] at h1
          · simp [memRead] at h1
          · intro x hx
            rcases List.mem_cons.1 hx with rfl | hx
            · exact hlt
            · exact Nat.lt_trans hlt (hd.1 x hx)
        · exact heq
        · have h1 := e d.1
          rw [memRead_none_of_lt (m := c :: m) (a := d.1)] at h1
          · simp [memRead] at h1
          · intro x hx
            rcases List.mem_cons.1 hx with rfl | hx
            · exact hgt
            · exact Nat.lt_trans hgt (hc.1 x hx)
      have hval : c.2 = d.2 := by
        have h1 := e c.1
        simpa [memRead, hkey] using h1
      have htail : m = m' := by
        apply ih hc.2 hd.2
        intro a
        by_cases ha : a = c.1
        · rw [memRead_none_of_lt (m := m) (by intro x hx; exact ha ▸ hc.1 x hx),
            memRead_none_of_lt (m := m') (by intro x hx; exact ha ▸ hkey ▸ hd.1 x hx)]
        · have h1 := e a
          simpa [memRead, ha, hkey ▸ ha] using h1
      rw [htail, Prod.ext hkey hval]

end Sys2Proof.Machine
end

