-- ==== Sys2Proof/Laws/State.lean ====
section
/-! SUPPORT. One lemma per field per update of State, each true by rfl. -/

namespace Sys2Proof.Machine

variable (s : State)

/-! ## setMatrix -/
@[simp] theorem State.setMatrix_sMat (b : Block) : (s.setMatrix b).sMat = some b := rfl
@[simp] theorem State.setMatrix_ph (b : Block) : (s.setMatrix b).ph = s.ph := rfl
@[simp] theorem State.setMatrix_rnd (b : Block) : (s.setMatrix b).rnd = s.rnd := rfl
@[simp] theorem State.setMatrix_nrl (b : Block) : (s.setMatrix b).nrl = s.nrl := rfl
@[simp] theorem State.setMatrix_busy (b : Block) : (s.setMatrix b).busy = s.busy := rfl
@[simp] theorem State.setMatrix_result (b : Block) : (s.setMatrix b).result = s.result := rfl
@[simp] theorem State.setMatrix_mem (b : Block) : (s.setMatrix b).mem = s.mem := rfl
@[simp] theorem State.setMatrix_build (b : Block) : (s.setMatrix b).build = s.build := rfl
@[simp] theorem State.setMatrix_alt (b : Block) : (s.setMatrix b).alt = s.alt := rfl
@[simp] theorem State.setMatrix_rkDirty (b : Block) : (s.setMatrix b).rkDirty = s.rkDirty := rfl
@[simp] theorem State.setMatrix_draws (b : Block) : (s.setMatrix b).draws = s.draws := rfl
@[simp] theorem State.setMatrix_host (b : Block) : (s.setMatrix b).host = s.host := rfl

/-! ## discardMatrix -/
@[simp] theorem State.discardMatrix_sMat : (s.discardMatrix).sMat = none := rfl
@[simp] theorem State.discardMatrix_ph : (s.discardMatrix).ph = s.ph := rfl
@[simp] theorem State.discardMatrix_rnd : (s.discardMatrix).rnd = s.rnd := rfl
@[simp] theorem State.discardMatrix_nrl : (s.discardMatrix).nrl = s.nrl := rfl
@[simp] theorem State.discardMatrix_busy : (s.discardMatrix).busy = s.busy := rfl
@[simp] theorem State.discardMatrix_result : (s.discardMatrix).result = s.result := rfl
@[simp] theorem State.discardMatrix_mem : (s.discardMatrix).mem = s.mem := rfl
@[simp] theorem State.discardMatrix_build : (s.discardMatrix).build = s.build := rfl
@[simp] theorem State.discardMatrix_alt : (s.discardMatrix).alt = s.alt := rfl
@[simp] theorem State.discardMatrix_rkDirty : (s.discardMatrix).rkDirty = s.rkDirty := rfl
@[simp] theorem State.discardMatrix_draws : (s.discardMatrix).draws = s.draws := rfl
@[simp] theorem State.discardMatrix_host : (s.discardMatrix).host = s.host := rfl

/-! ## setPhase -/
@[simp] theorem State.setPhase_sMat (p : Phase) : (s.setPhase p).sMat = s.sMat := rfl
@[simp] theorem State.setPhase_ph (p : Phase) : (s.setPhase p).ph = p := rfl
@[simp] theorem State.setPhase_rnd (p : Phase) : (s.setPhase p).rnd = s.rnd := rfl
@[simp] theorem State.setPhase_nrl (p : Phase) : (s.setPhase p).nrl = s.nrl := rfl
@[simp] theorem State.setPhase_busy (p : Phase) : (s.setPhase p).busy = s.busy := rfl
@[simp] theorem State.setPhase_result (p : Phase) : (s.setPhase p).result = s.result := rfl
@[simp] theorem State.setPhase_mem (p : Phase) : (s.setPhase p).mem = s.mem := rfl
@[simp] theorem State.setPhase_build (p : Phase) : (s.setPhase p).build = s.build := rfl
@[simp] theorem State.setPhase_alt (p : Phase) : (s.setPhase p).alt = s.alt := rfl
@[simp] theorem State.setPhase_rkDirty (p : Phase) : (s.setPhase p).rkDirty = s.rkDirty := rfl
@[simp] theorem State.setPhase_draws (p : Phase) : (s.setPhase p).draws = s.draws := rfl
@[simp] theorem State.setPhase_host (p : Phase) : (s.setPhase p).host = s.host := rfl

/-! ## setRound -/
@[simp] theorem State.setRound_sMat (r : BitVec 4) : (s.setRound r).sMat = s.sMat := rfl
@[simp] theorem State.setRound_ph (r : BitVec 4) : (s.setRound r).ph = s.ph := rfl
@[simp] theorem State.setRound_rnd (r : BitVec 4) : (s.setRound r).rnd = r := rfl
@[simp] theorem State.setRound_nrl (r : BitVec 4) : (s.setRound r).nrl = s.nrl := rfl
@[simp] theorem State.setRound_busy (r : BitVec 4) : (s.setRound r).busy = s.busy := rfl
@[simp] theorem State.setRound_result (r : BitVec 4) : (s.setRound r).result = s.result := rfl
@[simp] theorem State.setRound_mem (r : BitVec 4) : (s.setRound r).mem = s.mem := rfl
@[simp] theorem State.setRound_build (r : BitVec 4) : (s.setRound r).build = s.build := rfl
@[simp] theorem State.setRound_alt (r : BitVec 4) : (s.setRound r).alt = s.alt := rfl
@[simp] theorem State.setRound_rkDirty (r : BitVec 4) : (s.setRound r).rkDirty = s.rkDirty := rfl
@[simp] theorem State.setRound_draws (r : BitVec 4) : (s.setRound r).draws = s.draws := rfl
@[simp] theorem State.setRound_host (r : BitVec 4) : (s.setRound r).host = s.host := rfl

/-! ## latchRounds -/
@[simp] theorem State.latchRounds_sMat (n : BitVec 4) : (s.latchRounds n).sMat = s.sMat := rfl
@[simp] theorem State.latchRounds_ph (n : BitVec 4) : (s.latchRounds n).ph = s.ph := rfl
@[simp] theorem State.latchRounds_rnd (n : BitVec 4) : (s.latchRounds n).rnd = n := rfl
@[simp] theorem State.latchRounds_nrl (n : BitVec 4) : (s.latchRounds n).nrl = n := rfl
@[simp] theorem State.latchRounds_busy (n : BitVec 4) : (s.latchRounds n).busy = s.busy := rfl
@[simp] theorem State.latchRounds_result (n : BitVec 4) : (s.latchRounds n).result = s.result := rfl
@[simp] theorem State.latchRounds_mem (n : BitVec 4) : (s.latchRounds n).mem = s.mem := rfl
@[simp] theorem State.latchRounds_build (n : BitVec 4) : (s.latchRounds n).build = s.build := rfl
@[simp] theorem State.latchRounds_alt (n : BitVec 4) : (s.latchRounds n).alt = s.alt := rfl
@[simp] theorem State.latchRounds_rkDirty (n : BitVec 4) : (s.latchRounds n).rkDirty = s.rkDirty := rfl
@[simp] theorem State.latchRounds_draws (n : BitVec 4) : (s.latchRounds n).draws = s.draws := rfl
@[simp] theorem State.latchRounds_host (n : BitVec 4) : (s.latchRounds n).host = s.host := rfl

/-! ## setBusy -/
@[simp] theorem State.setBusy_sMat (b : Bool) : (s.setBusy b).sMat = s.sMat := rfl
@[simp] theorem State.setBusy_ph (b : Bool) : (s.setBusy b).ph = s.ph := rfl
@[simp] theorem State.setBusy_rnd (b : Bool) : (s.setBusy b).rnd = s.rnd := rfl
@[simp] theorem State.setBusy_nrl (b : Bool) : (s.setBusy b).nrl = s.nrl := rfl
@[simp] theorem State.setBusy_busy (b : Bool) : (s.setBusy b).busy = b := rfl
@[simp] theorem State.setBusy_result (b : Bool) : (s.setBusy b).result = s.result := rfl
@[simp] theorem State.setBusy_mem (b : Bool) : (s.setBusy b).mem = s.mem := rfl
@[simp] theorem State.setBusy_build (b : Bool) : (s.setBusy b).build = s.build := rfl
@[simp] theorem State.setBusy_alt (b : Bool) : (s.setBusy b).alt = s.alt := rfl
@[simp] theorem State.setBusy_rkDirty (b : Bool) : (s.setBusy b).rkDirty = s.rkDirty := rfl
@[simp] theorem State.setBusy_draws (b : Bool) : (s.setBusy b).draws = s.draws := rfl
@[simp] theorem State.setBusy_host (b : Bool) : (s.setBusy b).host = s.host := rfl

/-! ## setResult -/
@[simp] theorem State.setResult_sMat (r : Result) : (s.setResult r).sMat = s.sMat := rfl
@[simp] theorem State.setResult_ph (r : Result) : (s.setResult r).ph = s.ph := rfl
@[simp] theorem State.setResult_rnd (r : Result) : (s.setResult r).rnd = s.rnd := rfl
@[simp] theorem State.setResult_nrl (r : Result) : (s.setResult r).nrl = s.nrl := rfl
@[simp] theorem State.setResult_busy (r : Result) : (s.setResult r).busy = s.busy := rfl
@[simp] theorem State.setResult_result (r : Result) : (s.setResult r).result = r := rfl
@[simp] theorem State.setResult_mem (r : Result) : (s.setResult r).mem = s.mem := rfl
@[simp] theorem State.setResult_build (r : Result) : (s.setResult r).build = s.build := rfl
@[simp] theorem State.setResult_alt (r : Result) : (s.setResult r).alt = s.alt := rfl
@[simp] theorem State.setResult_rkDirty (r : Result) : (s.setResult r).rkDirty = s.rkDirty := rfl
@[simp] theorem State.setResult_draws (r : Result) : (s.setResult r).draws = s.draws := rfl
@[simp] theorem State.setResult_host (r : Result) : (s.setResult r).host = s.host := rfl

/-! ## setMem -/
@[simp] theorem State.setMem_sMat (m : Memory) : (s.setMem m).sMat = s.sMat := rfl
@[simp] theorem State.setMem_ph (m : Memory) : (s.setMem m).ph = s.ph := rfl
@[simp] theorem State.setMem_rnd (m : Memory) : (s.setMem m).rnd = s.rnd := rfl
@[simp] theorem State.setMem_nrl (m : Memory) : (s.setMem m).nrl = s.nrl := rfl
@[simp] theorem State.setMem_busy (m : Memory) : (s.setMem m).busy = s.busy := rfl
@[simp] theorem State.setMem_result (m : Memory) : (s.setMem m).result = s.result := rfl
@[simp] theorem State.setMem_mem (m : Memory) : (s.setMem m).mem = m := rfl
@[simp] theorem State.setMem_build (m : Memory) : (s.setMem m).build = s.build := rfl
@[simp] theorem State.setMem_alt (m : Memory) : (s.setMem m).alt = s.alt := rfl
@[simp] theorem State.setMem_rkDirty (m : Memory) : (s.setMem m).rkDirty = s.rkDirty := rfl
@[simp] theorem State.setMem_draws (m : Memory) : (s.setMem m).draws = s.draws := rfl
@[simp] theorem State.setMem_host (m : Memory) : (s.setMem m).host = s.host := rfl

/-! ## setAlt -/
@[simp] theorem State.setAlt_sMat (a : Option AltOp) : (s.setAlt a).sMat = s.sMat := rfl
@[simp] theorem State.setAlt_ph (a : Option AltOp) : (s.setAlt a).ph = s.ph := rfl
@[simp] theorem State.setAlt_rnd (a : Option AltOp) : (s.setAlt a).rnd = s.rnd := rfl
@[simp] theorem State.setAlt_nrl (a : Option AltOp) : (s.setAlt a).nrl = s.nrl := rfl
@[simp] theorem State.setAlt_busy (a : Option AltOp) : (s.setAlt a).busy = s.busy := rfl
@[simp] theorem State.setAlt_result (a : Option AltOp) : (s.setAlt a).result = s.result := rfl
@[simp] theorem State.setAlt_mem (a : Option AltOp) : (s.setAlt a).mem = s.mem := rfl
@[simp] theorem State.setAlt_build (a : Option AltOp) : (s.setAlt a).build = s.build := rfl
@[simp] theorem State.setAlt_alt (a : Option AltOp) : (s.setAlt a).alt = a := rfl
@[simp] theorem State.setAlt_rkDirty (a : Option AltOp) : (s.setAlt a).rkDirty = s.rkDirty := rfl
@[simp] theorem State.setAlt_draws (a : Option AltOp) : (s.setAlt a).draws = s.draws := rfl
@[simp] theorem State.setAlt_host (a : Option AltOp) : (s.setAlt a).host = s.host := rfl

/-! ## setRkDirty -/
@[simp] theorem State.setRkDirty_sMat (b : Bool) : (s.setRkDirty b).sMat = s.sMat := rfl
@[simp] theorem State.setRkDirty_ph (b : Bool) : (s.setRkDirty b).ph = s.ph := rfl
@[simp] theorem State.setRkDirty_rnd (b : Bool) : (s.setRkDirty b).rnd = s.rnd := rfl
@[simp] theorem State.setRkDirty_nrl (b : Bool) : (s.setRkDirty b).nrl = s.nrl := rfl
@[simp] theorem State.setRkDirty_busy (b : Bool) : (s.setRkDirty b).busy = s.busy := rfl
@[simp] theorem State.setRkDirty_result (b : Bool) : (s.setRkDirty b).result = s.result := rfl
@[simp] theorem State.setRkDirty_mem (b : Bool) : (s.setRkDirty b).mem = s.mem := rfl
@[simp] theorem State.setRkDirty_build (b : Bool) : (s.setRkDirty b).build = s.build := rfl
@[simp] theorem State.setRkDirty_alt (b : Bool) : (s.setRkDirty b).alt = s.alt := rfl
@[simp] theorem State.setRkDirty_rkDirty (b : Bool) : (s.setRkDirty b).rkDirty = b := rfl
@[simp] theorem State.setRkDirty_draws (b : Bool) : (s.setRkDirty b).draws = s.draws := rfl
@[simp] theorem State.setRkDirty_host (b : Bool) : (s.setRkDirty b).host = s.host := rfl

/-! ## countDraw -/
@[simp] theorem State.countDraw_sMat : (s.countDraw).sMat = s.sMat := rfl
@[simp] theorem State.countDraw_ph : (s.countDraw).ph = s.ph := rfl
@[simp] theorem State.countDraw_rnd : (s.countDraw).rnd = s.rnd := rfl
@[simp] theorem State.countDraw_nrl : (s.countDraw).nrl = s.nrl := rfl
@[simp] theorem State.countDraw_busy : (s.countDraw).busy = s.busy := rfl
@[simp] theorem State.countDraw_result : (s.countDraw).result = s.result := rfl
@[simp] theorem State.countDraw_mem : (s.countDraw).mem = s.mem := rfl
@[simp] theorem State.countDraw_build : (s.countDraw).build = s.build := rfl
@[simp] theorem State.countDraw_alt : (s.countDraw).alt = s.alt := rfl
@[simp] theorem State.countDraw_rkDirty : (s.countDraw).rkDirty = s.rkDirty := rfl
@[simp] theorem State.countDraw_draws : (s.countDraw).draws = s.draws + 1 := rfl
@[simp] theorem State.countDraw_host : (s.countDraw).host = s.host := rfl

/-! ## dropTurn -/
@[simp] theorem State.dropTurn_sMat : (s.dropTurn).sMat = s.sMat := rfl
@[simp] theorem State.dropTurn_ph : (s.dropTurn).ph = s.ph := rfl
@[simp] theorem State.dropTurn_rnd : (s.dropTurn).rnd = s.rnd := rfl
@[simp] theorem State.dropTurn_nrl : (s.dropTurn).nrl = s.nrl := rfl
@[simp] theorem State.dropTurn_busy : (s.dropTurn).busy = s.busy := rfl
@[simp] theorem State.dropTurn_result : (s.dropTurn).result = s.result := rfl
@[simp] theorem State.dropTurn_mem : (s.dropTurn).mem = s.mem := rfl
@[simp] theorem State.dropTurn_build : (s.dropTurn).build = s.build := rfl
@[simp] theorem State.dropTurn_alt : (s.dropTurn).alt = s.alt := rfl
@[simp] theorem State.dropTurn_rkDirty : (s.dropTurn).rkDirty = s.rkDirty := rfl
@[simp] theorem State.dropTurn_draws : (s.dropTurn).draws = s.draws := rfl
@[simp] theorem State.dropTurn_host : (s.dropTurn).host = s.host.tail := rfl

/-! ## reportUnsupported -/
@[simp] theorem State.reportUnsupported_sMat : (s.reportUnsupported).sMat = s.sMat := rfl
@[simp] theorem State.reportUnsupported_ph : (s.reportUnsupported).ph = s.ph := rfl
@[simp] theorem State.reportUnsupported_rnd : (s.reportUnsupported).rnd = s.rnd := rfl
@[simp] theorem State.reportUnsupported_nrl : (s.reportUnsupported).nrl = s.nrl := rfl
@[simp] theorem State.reportUnsupported_busy : (s.reportUnsupported).busy = s.busy := rfl
@[simp] theorem State.reportUnsupported_result : (s.reportUnsupported).result = .featureUnsupported := rfl
@[simp] theorem State.reportUnsupported_mem : (s.reportUnsupported).mem = s.mem := rfl
@[simp] theorem State.reportUnsupported_build : (s.reportUnsupported).build = s.build := rfl
@[simp] theorem State.reportUnsupported_alt : (s.reportUnsupported).alt = s.alt := rfl
@[simp] theorem State.reportUnsupported_rkDirty : (s.reportUnsupported).rkDirty = s.rkDirty := rfl
@[simp] theorem State.reportUnsupported_draws : (s.reportUnsupported).draws = s.draws := rfl
@[simp] theorem State.reportUnsupported_host : (s.reportUnsupported).host = s.host := rfl

/-! ## afterReset -/
@[simp] theorem State.afterReset_sMat : (s.afterReset).sMat = none := rfl
@[simp] theorem State.afterReset_ph : (s.afterReset).ph = .idle := rfl
@[simp] theorem State.afterReset_rnd : (s.afterReset).rnd = 0 := rfl
@[simp] theorem State.afterReset_nrl : (s.afterReset).nrl = 0 := rfl
@[simp] theorem State.afterReset_busy : (s.afterReset).busy = false := rfl
@[simp] theorem State.afterReset_result : (s.afterReset).result = .none := rfl
@[simp] theorem State.afterReset_mem : (s.afterReset).mem = s.mem := rfl
@[simp] theorem State.afterReset_build : (s.afterReset).build = s.build := rfl
@[simp] theorem State.afterReset_alt : (s.afterReset).alt = none := rfl
@[simp] theorem State.afterReset_rkDirty : (s.afterReset).rkDirty = false := rfl
@[simp] theorem State.afterReset_draws : (s.afterReset).draws = s.draws := rfl
@[simp] theorem State.afterReset_host : (s.afterReset).host = s.host := rfl

end Sys2Proof.Machine
end

