-- ==== Sys2Proof/Laws/Ops.lean ====
section
/-! SUPPORT. For each shared operation of the meanings, everything it can do, said once. -/

namespace Sys2Proof.Machine

variable {s t : State}

/-! ## Sequencing -/

theorem onValue_next_iff {α : Type} {r : Except Fault α} {f : α → StepOutcome} :
    onValue r f = .next t ↔ ∃ a, r = .ok a ∧ f a = .next t := by
  cases r <;> simp [onValue]

theorem onValue_fault_iff {α : Type} {r : Except Fault α} {f : α → StepOutcome} {e : Fault} :
    onValue r f = .fault e ↔ r = .error e ∨ ∃ a, r = .ok a ∧ f a = .fault e := by
  cases r <;> simp [onValue]

theorem onValue_refused_iff {α : Type} {r : Except Fault α} {f : α → StepOutcome} {e : Refusal} :
    onValue r f = .refused e ↔ ∃ a, r = .ok a ∧ f a = .refused e := by
  cases r <;> simp [onValue]

theorem andThen_next_iff {o : StepOutcome} {f : State → StepOutcome} :
    andThen o f = .next t ↔ ∃ u, o = .next u ∧ f u = .next t := by
  cases o <;> simp [andThen]

theorem andThen_fault_iff {o : StepOutcome} {f : State → StepOutcome} {e : Fault} :
    andThen o f = .fault e ↔ o = .fault e ∨ ∃ u, o = .next u ∧ f u = .fault e := by
  cases o <;> simp [andThen]

theorem andThen_refused_iff {o : StepOutcome} {f : State → StepOutcome} {e : Refusal} :
    andThen o f = .refused e ↔ o = .refused e ∨ ∃ u, o = .next u ∧ f u = .refused e := by
  cases o <;> simp [andThen]

/-! ## Operands -/

theorem readMatrix_ok_iff {b : Block} : s.readMatrix = .ok b ↔ s.sMat = some b := by
  unfold State.readMatrix; cases s.sMat <;> simp

theorem readMatrix_error_iff {e : Fault} : s.readMatrix = .error e ↔ s.sMat = none ∧ e = .invalidMatrix := by
  unfold State.readMatrix; cases s.sMat <;> simp [eq_comm]

/-- A block is read exactly when it lies in its space and each of its bytes has been written. -/
theorem readBlock_ok_iff {sp : Space} {i : Nat} {b : Block} :
    s.readBlock sp i = .ok b ↔
      i + 16 ≤ sp.size ∧ ∀ j (hj : j < 16), memRead s.mem (s.locate sp i + j) = some b[j] := by
  rw [← memReadBlock_eq_some_iff]
  unfold State.readBlock
  split
  · cases memReadBlock s.mem (s.locate sp i) <;> simp_all
  · simp_all

/-- A block read inside its space stops only on a byte without a value. -/
theorem readBlock_error {sp : Space} {i : Nat} {e : Fault} (hi : i + 16 ≤ sp.size)
    (h : s.readBlock sp i = .error e) : e = .neverWritten sp := by
  unfold State.readBlock at h
  rw [if_pos hi] at h
  cases hm : memReadBlock s.mem (s.locate sp i) <;> simp_all

/-- A block read depends on the storage and the placement alone. -/
theorem readBlock_congr {sp : Space} {i : Nat} (hb : s.build = t.build)
    (h : ∀ j, j < 16 → memRead s.mem (s.locate sp i + j) = memRead t.mem (s.locate sp i + j)) :
    s.readBlock sp i = t.readBlock sp i := by
  have hl : t.locate sp i = s.locate sp i := by simp [State.locate, hb]
  unfold State.readBlock
  rw [hl, memReadBlock_congr h]

/-- START's read of `KL` gives a length, or stops on a byte without a value or on the reserved code. -/
theorem readKl_error {e : Fault} (h : s.readKl = .error e) : e = .neverWritten .kl ∨ e = .reservedKeyLength := by
  unfold State.readKl at h
  split at h
  · exact .inl (by simpa using h.symm)
  · split at h
    · cases h
    · exact .inr (by simpa using h.symm)

/-- ARK's read: a free value when the schedule was written during the operation, else the round key in `RK`. -/
theorem readRoundKey_ok_iff {k : BitVec 4} {r : Block × State} :
    s.readRoundKey k = .ok r ↔
      (s.rkDirty = true ∧ r = (Config.unstableRoundKey s.draws, s.countDraw)) ∨
      (s.rkDirty = false ∧ s.readBlock .rk (roundKeyIndex k.toNat) = .ok r.1 ∧ r.2 = s) := by
  unfold State.readRoundKey
  cases s.rkDirty
  · cases h : s.readBlock .rk (roundKeyIndex k.toNat)
    · simp
    · obtain ⟨a, u⟩ := r; simp [eq_comm]
  · simp [eq_comm]

/-- Every error of a schedule read comes from one of its round keys. -/
theorem readSchedule_error {n : Nat} {e : Fault} (h : s.readSchedule n = .error e) :
    ∃ k, k < n ∧ s.readBlock .rk (roundKeyIndex k) = .error e := by
  induction n with
  | zero => simp [State.readSchedule] at h
  | succ n ih =>
    unfold State.readSchedule at h
    split at h
    · rename_i he
      obtain ⟨k, hk, hr⟩ := ih (he.trans h)
      exact ⟨k, by omega, hr⟩
    · split at h
      · cases h
      · rename_i he
        cases h
        exact ⟨n, by omega, he⟩

/-- The legal placements in plain arithmetic. -/
theorem placeLegal_iff {p : Placement} :
    placeLegal p = true ↔
      (p.out + 16 ≤ p.rk ∨ p.rk + 240 ≤ p.out) ∧ (p.out + 16 ≤ p.kl ∨ p.kl + 1 ≤ p.out) ∧
      (p.inp + 16 ≤ p.rk ∨ p.rk + 240 ≤ p.inp) ∧ (p.inp + 16 ≤ p.kl ∨ p.kl + 1 ≤ p.inp) ∧
      (p.rk + 240 ≤ p.kl ∨ p.kl + 1 ≤ p.rk) := by
  have h : ∀ x y, apart p x y = true ↔
      placeBase p x + x.size ≤ placeBase p y ∨ placeBase p y + y.size ≤ placeBase p x := by
    intro x y; simp [apart]
  simp only [placeLegal, Bool.and_eq_true, h, and_assoc]
  rfl

/-! ## Meanings -/

/-- What ISR, ISB, IMC and the second half of ARK do. -/
theorem transform_next_iff {f : Block → Block} {move : State → State} :
    transform f move s = .next t ↔ ∃ b, s.sMat = some b ∧ t = move (s.setMatrix (f b)) := by
  simp only [transform, onValue_next_iff, readMatrix_ok_iff, Host.Outcome.next.injEq]
  exact exists_congr fun b => and_congr_right fun _ => eq_comm

theorem transform_fault_iff {f : Block → Block} {move : State → State} {e : Fault} :
    transform f move s = .fault e ↔ s.sMat = none ∧ e = .invalidMatrix := by
  simp [transform, onValue_fault_iff, readMatrix_error_iff]

theorem transform_refused {f : Block → Block} {move : State → State} {e : Refusal} :
    transform f move s ≠ .refused e := by
  simp [transform, onValue_refused_iff]

/-- The three moves of the sequencer after an ARK. -/
theorem moveAfterArk_cases (s : State) :
    (s.rnd = s.nrl ∧ s.moveAfterArk = (s.setRound (s.rnd - 1)).setPhase .isr) ∨
    (s.rnd ≠ s.nrl ∧ s.rnd = 0 ∧ s.moveAfterArk = s.setPhase .store) ∨
    (s.rnd ≠ s.nrl ∧ s.rnd ≠ 0 ∧ s.moveAfterArk = s.setPhase .imc) := by
  unfold State.moveAfterArk
  by_cases h : s.rnd = s.nrl
  · exact .inl ⟨h, if_pos h⟩
  · by_cases h0 : s.rnd = 0
    · exact .inr (.inl ⟨h, h0, by rw [if_neg h, if_pos h0]⟩)
    · exact .inr (.inr ⟨h, h0, by rw [if_neg h, if_neg h0]⟩)

theorem loadMatrix_ok_iff : s.loadMatrix = .ok t ↔ ∃ b, s.readBlock .inp 0 = .ok b ∧ t = s.setMatrix b := by
  unfold State.loadMatrix
  cases s.readBlock .inp 0 <;> simp [eq_comm]

theorem loadMatrix_error_iff {e : Fault} : s.loadMatrix = .error e ↔ s.readBlock .inp 0 = .error e := by
  unfold State.loadMatrix
  cases s.readBlock .inp 0 <;> simp

/-! ## The single write of OUT -/

@[simp] theorem writeOut_mem (b : Block) : (s.writeOut b).mem = memWriteBlock s.mem (s.locate .out 0) b := rfl

/-- The write of `OUT` changes the storage alone. -/
theorem writeOut_eq (b : Block) : s.writeOut b = { s with mem := memWriteBlock s.mem (s.locate .out 0) b } := rfl

/-- Delivering a plaintext changes the storage and `RESULT` alone. -/
theorem deliver_eq (b : Block) :
    s.deliver b = { s with mem := memWriteBlock s.mem (s.locate .out 0) b, result := .ok } := rfl

/-! ## The alternate backend -/

/-- An operation drawn anew: it fails only if the step of a failure is still to come, and then in that step. -/
theorem redrawn_cases (op : AltOp) (d : Nat) :
    (∃ b, op.redrawn d = { op with left := Config.altOkSteps d, plain := some b, dirty := false }) ∨
    (∃ f, op.failIn = some f ∧ op.redrawn d = { op with left := f, plain := none, dirty := false }) := by
  unfold AltOp.redrawn
  cases hf : op.failIn with
  | none => exact .inl ⟨_, rfl⟩
  | some f =>
    cases Config.unstableAltOutcome d with
    | none => exact .inr ⟨f, rfl, rfl⟩
    | some b => exact .inl ⟨b, rfl⟩

@[simp] theorem later_left (op : AltOp) : op.later.left = op.left - 1 := rfl
@[simp] theorem later_plain (op : AltOp) : op.later.plain = op.plain := rfl
@[simp] theorem later_dirty (op : AltOp) : op.later.dirty = op.dirty := rfl
@[simp] theorem later_rounds (op : AltOp) : op.later.rounds = op.rounds := rfl

/-- The count to the step of a failure, one step on. -/
theorem later_failIn_iff (op : AltOp) (f : Nat) : op.later.failIn = some f ↔ op.failIn = some (f + 1) := by
  unfold AltOp.later
  cases op.failIn with
  | none => simp
  | some n => cases n <;> simp

/-- A step of a fixed operation: the end, or one step on. -/
theorem tickAlt_cases (op : AltOp) :
    (op.left = 0 ∧ s.tickAlt op = s.settleAlt op.plain) ∨ (op.left ≠ 0 ∧ s.tickAlt op = s.setAlt (some op.later)) := by
  unfold State.tickAlt
  by_cases h : op.left = 0 <;> simp [h]

/-- What the alternate backend does in a step. -/
theorem altTick_cases (s : State) :
    (s.alt = none ∧ s.altTick = s) ∨
    (∃ op, s.alt = some op ∧ op.dirty = false ∧ s.altTick = s.tickAlt op) ∨
    (∃ op, s.alt = some op ∧ op.dirty = true ∧ s.altTick = s.countDraw.tickAlt (op.redrawn s.draws)) := by
  unfold State.altTick
  cases h : s.alt with
  | none => simp
  | some op => cases hd : op.dirty <;> simp [hd]

/-- Each of the two ends: the operation is over, and the failure leaves everything but `RESULT` alone. -/
theorem settleAlt_eq (o : Option Block) :
    (∃ b, o = some b ∧ s.settleAlt o = (s.setAlt none).deliver b) ∨
    (o = none ∧ s.settleAlt o = (s.setAlt none).reportUnsupported) := by
  cases o with
  | none => exact .inr ⟨rfl, rfl⟩
  | some b => exact .inl ⟨b, rfl, rfl⟩

@[simp] theorem altTick_of_none (h : s.alt = none) : s.altTick = s := by
  simp [State.altTick, h]

/-! ## The host's writes -/

/-- What a location reads as after a host write. -/
theorem hostWrite_read (w : HostWrite) (a : Nat) :
    memRead (s.hostWrite w).mem a = if a = (s.hostCell w).1 then some (s.hostCell w).2 else memRead s.mem a := by
  simp [State.hostWrite]

@[simp] theorem hostWrite_sMat (w : HostWrite) : (s.hostWrite w).sMat = s.sMat := rfl
@[simp] theorem hostWrite_ph (w : HostWrite) : (s.hostWrite w).ph = s.ph := rfl
@[simp] theorem hostWrite_rnd (w : HostWrite) : (s.hostWrite w).rnd = s.rnd := rfl
@[simp] theorem hostWrite_nrl (w : HostWrite) : (s.hostWrite w).nrl = s.nrl := rfl
@[simp] theorem hostWrite_busy (w : HostWrite) : (s.hostWrite w).busy = s.busy := rfl
@[simp] theorem hostWrite_result (w : HostWrite) : (s.hostWrite w).result = s.result := rfl
@[simp] theorem hostWrite_build (w : HostWrite) : (s.hostWrite w).build = s.build := rfl
@[simp] theorem hostWrite_draws (w : HostWrite) : (s.hostWrite w).draws = s.draws := rfl
@[simp] theorem hostWrite_host (w : HostWrite) : (s.hostWrite w).host = s.host := rfl

/-- A property that every single write keeps is kept by all the writes of a turn: the induction over a turn, once. -/
theorem afterHostWrites_induct {P : State → Prop} (h0 : P s.dropTurn)
    (hw : ∀ u w, w ∈ s.turn.writes → P u → P (u.hostWrite w)) : P s.afterHostWrites := by
  unfold State.afterHostWrites
  generalize s.turn.writes = ws at hw
  generalize s.dropTurn = u at h0
  induction ws generalizing u with
  | nil => exact h0
  | cons w ws ih =>
    exact ih (fun u w' hw' => hw u w' (List.mem_cons_of_mem _ hw')) _ (hw u w (by simp) h0)

/-- The host's writes change the storage, the two marks of a written schedule and the list of turns; nothing else. -/
theorem afterHostWrites_frame :
    s.afterHostWrites.sMat = s.sMat ∧ s.afterHostWrites.ph = s.ph ∧ s.afterHostWrites.rnd = s.rnd ∧
      s.afterHostWrites.nrl = s.nrl ∧ s.afterHostWrites.busy = s.busy ∧ s.afterHostWrites.result = s.result ∧
      s.afterHostWrites.build = s.build ∧ s.afterHostWrites.draws = s.draws ∧ s.afterHostWrites.host = s.host.tail := by
  refine afterHostWrites_induct (P := fun u => u.sMat = s.sMat ∧ u.ph = s.ph ∧ u.rnd = s.rnd ∧ u.nrl = s.nrl ∧
    u.busy = s.busy ∧ u.result = s.result ∧ u.build = s.build ∧ u.draws = s.draws ∧ u.host = s.host.tail) ?_ ?_
  · simp
  · intro u w _ h; simpa using h

/-- The host's writes neither start nor end an alternate operation. -/
theorem afterHostWrites_alt_isSome : s.afterHostWrites.alt.isSome = s.alt.isSome := by
  refine afterHostWrites_induct (P := fun u => u.alt.isSome = s.alt.isSome) rfl ?_
  intro u w _ h; simpa [State.hostWrite] using h

/-- With no alternate operation in flight, none is after the host's writes. -/
theorem afterHostWrites_alt_none (h : s.alt = none) : s.afterHostWrites.alt = none := by
  have := afterHostWrites_alt_isSome (s := s)
  simpa [h] using this

/-- The host's writes change an alternate operation in flight in its mark alone. -/
theorem afterHostWrites_alt_some {op : AltOp} (h : s.alt = some op) :
    ∃ d, s.afterHostWrites.alt = some { op with dirty := d } := by
  refine afterHostWrites_induct (P := fun u => ∃ d, u.alt = some { op with dirty := d }) ⟨op.dirty, h⟩ ?_
  rintro u w - ⟨d, hd⟩
  exact ⟨_, by simp [State.hostWrite, hd]; rfl⟩

/-- The host's writes keep the canonical form. -/
theorem afterHostWrites_wf (h : Memory.wf s.mem) : Memory.wf s.afterHostWrites.mem := by
  refine afterHostWrites_induct (P := fun u => Memory.wf u.mem) h ?_
  intro u w _ hu
  exact memWrite_wf hu _ _

/-- With no write in the turn, only the turn is used up. -/
theorem afterHostWrites_of_no_writes (h : s.turn.writes = []) : s.afterHostWrites = s.dropTurn := by
  simp [State.afterHostWrites, h]

/-! ## Reset -/

/-- Right after reset nothing is listed, so the storage is in its canonical form. -/
theorem reset_mem_wf : Memory.wf State.reset.mem := List.Pairwise.nil

end Sys2Proof.Machine
end

