-- ==== Sys2Proof/Laws/PerInstr.lean ====
section
/-! SUPPORT. A statement for every instruction, one lemma per constructor: the word of an operation is the row of the
opcode map (30_encoding.md R84), `word & mask = match`. -/

namespace Sys2Proof.Laws.OpcodeRow

/-- The `mask` of the operation's row (R84). -/
def mask : Instr → Byte
  | .ark _ => 0xF0
  | .cnop | .start | .nop | .lds | .isr | .isb | .imc | .sto | .fail => 0xFF

/-- The `match` of the operation's row (R84). -/
def matchBits : Instr → Byte
  | .cnop => 0x00
  | .start => 0x01
  | .nop => 0x00
  | .lds => 0x20
  | .ark _ => 0x40
  | .isr => 0x60
  | .isb => 0x80
  | .imc => 0xA0
  | .sto => 0xC0
  | .fail => 0xE0

/-- The word of `i` is selected by its own row. -/
def Statement (i : Instr) : Prop := encode i &&& mask i = matchBits i

theorem cnop : Statement .cnop := by unfold Statement; decide
theorem start : Statement .start := by unfold Statement; decide
theorem nop : Statement .nop := by unfold Statement; decide
theorem lds : Statement .lds := by unfold Statement; decide
theorem ark (k : BitVec 4) : Statement (.ark k) := by
  have h : ∀ k : BitVec 4, encode (.ark k) &&& 0xF0 = 0x40 := by decide
  exact h k
theorem isr : Statement .isr := by unfold Statement; decide
theorem isb : Statement .isb := by unfold Statement; decide
theorem imc : Statement .imc := by unfold Statement; decide
theorem sto : Statement .sto := by unfold Statement; decide
theorem fail : Statement .fail := by unfold Statement; decide

end Sys2Proof.Laws.OpcodeRow
end

