-- ==== Sys2Proof/Laws/Step.lean ====
section
/-! SUPPORT. What one step can do, said once. -/

namespace Sys2Proof.Machine

variable {s t : State}

/-! ## The word issued in each phase, decoded -/

theorem decode_idleWord (h : s.ph = .idle) : decode .micro s.sequencerWord = .ok .nop := by
  unfold State.sequencerWord; rw [h]; exact (by decide : decode .micro 0x00 = .ok .nop)

theorem decode_isrWord (h : s.ph = .isr) : decode .micro s.sequencerWord = .ok .isr := by
  unfold State.sequencerWord; rw [h]; exact (by decide : decode .micro 0x60 = .ok .isr)

theorem decode_isbWord (h : s.ph = .isb) : decode .micro s.sequencerWord = .ok .isb := by
  unfold State.sequencerWord; rw [h]; exact (by decide : decode .micro 0x80 = .ok .isb)

theorem decode_imcWord (h : s.ph = .imc) : decode .micro s.sequencerWord = .ok .imc := by
  unfold State.sequencerWord; rw [h]; exact (by decide : decode .micro 0xA0 = .ok .imc)

theorem decode_storeWord (h : s.ph = .store) : decode .micro s.sequencerWord = .ok .sto := by
  unfold State.sequencerWord; rw [h]; exact (by decide : decode .micro 0xC0 = .ok .sto)

/-- In phase ARK the word issued is that of ARK `RND`. -/
theorem decode_arkWord (h : s.ph = .ark) (hr : s.rnd.toNat ≤ 14) :
    decode .micro s.sequencerWord = .ok (.ark s.rnd) := by
  have key : ∀ r : BitVec 4, r.toNat ≤ 14 → decode .micro (0x40 + r.zeroExtend 8) = .ok (.ark r) := by decide
  unfold State.sequencerWord; rw [h]; exact key s.rnd hr

/-- The sequencer's part of a step, by phase. -/
theorem sequencerStep_eq (hr : s.ph = .ark → s.rnd.toNat ≤ 14) :
    sequencerStep s =
      match s.ph with
      | .idle => exec .nop s
      | .ark => exec (.ark s.rnd) s
      | .isr => exec .isr s
      | .isb => exec .isb s
      | .imc => exec .imc s
      | .store => exec .sto s := by
  unfold sequencerStep
  cases h : s.ph with
  | idle => rw [decode_idleWord h]
  | ark => rw [decode_arkWord h (hr h)]
  | isr => rw [decode_isrWord h]
  | isb => rw [decode_isbWord h]
  | imc => rw [decode_imcWord h]
  | store => rw [decode_storeWord h]

/-! ## Commands -/

theorem decode_startWord : decode .command (encode .start) = .ok .start := by decide

theorem decode_cnopWord : decode .command (encode .cnop) = .ok .cnop := by decide

/-- A command word is CNOP, START or reserved. -/
theorem decode_command_cases (w : Byte) :
    (w = encode .cnop ∧ decode .command w = .ok .cnop) ∨ (w = encode .start ∧ decode .command w = .ok .start) ∨
      (w ≠ encode .cnop ∧ w ≠ encode .start ∧ decode .command w = .error (.reservedCommand w)) := by
  revert w; decide

/-- The part of a step after the host's writes: the sequencer's alone, an accepted START, or a reserved command. -/
theorem commandStep_cases (cmd : Option Byte) (s : State) :
    ((cmd = none ∨ cmd = some (encode .cnop) ∨ cmd = some (encode .start) ∧ s.ph ≠ .idle) ∧
        commandStep cmd s = sequencerStep s) ∨
    (cmd = some (encode .start) ∧ s.ph = .idle ∧ commandStep cmd s = exec .start s) ∨
    (∃ w, cmd = some w ∧ w ≠ encode .cnop ∧ w ≠ encode .start ∧
      commandStep cmd s = .refused (.reservedWord (.reservedCommand w))) := by
  cases cmd with
  | none => exact .inl ⟨.inl rfl, rfl⟩
  | some w =>
    rcases decode_command_cases w with ⟨rfl, hd⟩ | ⟨rfl, hd⟩ | ⟨h0, h1, hd⟩
    · refine .inl ⟨.inr (.inl rfl), ?_⟩
      simp [commandStep, hd, exec, execCnop, andThen]
    · by_cases hp : s.ph = .idle
      · exact .inr (.inl ⟨rfl, hp, by simp [commandStep, hd, hp]⟩)
      · refine .inl ⟨.inr (.inr ⟨rfl, hp⟩), ?_⟩
        simp [commandStep, hd, hp, exec, execStart, andThen]
    · exact .inr (.inr ⟨w, rfl, h0, h1, by simp [commandStep, hd]⟩)

/-! ## Steps -/

/-- Everything a step that goes on can be: reset, an accepted START, or the sequencer's micro-operation, each after the
host's writes; the last two followed by the alternate backend. -/
theorem step_next_cases (h : step s = .next t) :
    placeLegal s.build.place = true ∧
      ((s.turn.reset = true ∧ t = s.afterHostWrites.afterReset) ∨
       (s.turn.reset = false ∧ s.ph = .idle ∧ s.turn.cmd = some (encode .start) ∧
          ∃ u, exec .start s.afterHostWrites = .next u ∧ t = u.altTick) ∨
       (s.turn.reset = false ∧ ∃ u, sequencerStep s.afterHostWrites = .next u ∧ t = u.altTick)) := by
  unfold step at h
  split at h
  case isFalse => cases h
  case isTrue hp =>
    refine ⟨hp, ?_⟩
    split at h
    case isTrue hr => exact .inl ⟨hr, by simpa using h.symm⟩
    case isFalse hr =>
      have hr' : s.turn.reset = false := by simpa using hr
      obtain ⟨u, hu, ht⟩ := andThen_next_iff.1 h
      have ht' : t = u.altTick := by simpa using ht.symm
      have hph : s.afterHostWrites.ph = s.ph := afterHostWrites_frame.2.1
      rcases commandStep_cases s.turn.cmd s.afterHostWrites with ⟨-, hc⟩ | ⟨hc0, hi, hc⟩ | ⟨w, -, -, -, hc⟩
      · exact .inr (.inr ⟨hr', u, hc ▸ hu, ht'⟩)
      · exact .inr (.inl ⟨hr', hph ▸ hi, hc0, u, hc ▸ hu, ht'⟩)
      · rw [hc] at hu; cases hu

end Sys2Proof.Machine
end

