-- ==== Sys2Proof/Tests/Slice0.lean ====
section
/-! SUPPORT. The model's own tests: expected values from spec/30_encoding.md R84 and spec/95_test_vectors.md; and, for every
statement with hypotheses, a concrete state that meets them (witness_<name of the statement>). -/

namespace Sys2Proof.Tests

open Sys2Proof Sys2Proof.Machine

/-! ## Helpers -/

/-- The next state, if there is one. -/
def nextOf : StepOutcome → Option State
  | .next s => some s
  | .fault _ => none
  | .refused _ => none

/-- The fault, if there is one. -/
def faultOf : StepOutcome → Option Fault
  | .fault e => some e
  | .next _ => none
  | .refused _ => none

/-- The refusal, if there is one. -/
def refusalOf : StepOutcome → Option Refusal
  | .refused e => some e
  | .next _ => none
  | .fault _ => none

/-- A state in the middle of an operation of 10 rounds. -/
def mid (p : Phase) (r : BitVec 4) (b : Block) : State :=
  { State.reset with sMat := some b, ph := p, rnd := r, nrl := 10, busy := true }

/-- `s` with a block written from index 0 or 16k of a space on. -/
def withBlock (s : State) (sp : Space) (i : Nat) (b : Block) : State :=
  s.setMem (memWriteBlock s.mem (s.locate sp i) b)

/-- `s` with a value of `KL`. -/
def withKl (s : State) (v : Byte) : State := s.hostWrite (.kl v)

/-- `s` built with another backend. -/
def withBackend (s : State) (b : Backend) : State := { s with build := { s.build with backend := b } }

/-- `s` with the host's coming turns. -/
def withHost (s : State) (h : List HostTurn) : State := { s with host := h }

/-- The context and the input in place: K128, a schedule and an input of zeros. -/
def filled : State := State.reset.fillContext

/-- The same with `OUT` on `IN`. -/
def aliased : State := ({ State.reset with build := ⟨.soft, ⟨0, 64, 16, 16⟩⟩ }).fillContext

/-- `KL` and `IN` in place, `KL` = K192, `IN` of the AES-128 example. -/
def atStart : State := withBlock (withKl State.reset 1) .inp 0 (blockOf 0x69c4e0d86a7b0430d8cdb78070b4c55a)

/-- An alternate operation of 10 rounds in flight. -/
def inFlight : State := { withBackend State.reset .altReal with alt := some ⟨10, 2, some (blockOf 0), false, some 3⟩ }

/-! ## WellFormed: the one check refuses an ill-formed term (R89) -/

theorem test_wellFormed_refuses_ark15 : Instr.wellFormed (.ark 15) = false := by decide
theorem test_wellFormed_takes_ark14 : Instr.wellFormed (.ark 14) = true := by decide

/-! ## Decoding: words written out bit by bit from R81, R82, R84 -/

theorem test_decode_cnop : decode .command 0b0000000_0 = .ok .cnop := by decide
theorem test_decode_start : decode .command 0b0000000_1 = .ok .start := by decide
theorem test_decode_nop : decode .micro 0b000_0_0000 = .ok .nop := by decide
theorem test_decode_lds : decode .micro 0b001_0_0000 = .ok .lds := by decide
theorem test_decode_ark10 : decode .micro 0b010_0_1010 = .ok (.ark 10) := by decide
theorem test_decode_ark0 : decode .micro 0b010_0_0000 = .ok (.ark 0) := by decide
theorem test_decode_isr : decode .micro 0b011_0_0000 = .ok .isr := by decide
theorem test_decode_isb : decode .micro 0b100_0_0000 = .ok .isb := by decide
theorem test_decode_imc : decode .micro 0b101_0_0000 = .ok .imc := by decide
theorem test_decode_sto : decode .micro 0b110_0_0000 = .ok .sto := by decide
theorem test_decode_fail : decode .micro 0b111_0_0000 = .ok .fail := by decide
theorem test_decode_reserved_command : decode .command 0x02 = .error (.reservedCommand 0x02) := by decide
theorem test_decode_reserved_z : decode .micro 0b011_1_0000 = .error (.reservedZ 0x70) := by decide
theorem test_decode_stray_k : decode .micro 0b011_0_0001 = .error (.strayK 0x61) := by decide
theorem test_decode_ark15 : decode .micro 0b010_0_1111 = .error (.arkIndex15 0x4F) := by decide
theorem test_table_word_ark : decodeTableWord 8 0x4A = some (.ark 10) := by decide
theorem test_table_word_zero_is_cnop : decodeTableWord 8 0x00 = some .cnop := by decide

/-! ## The transformations, by vectors of 95_test_vectors.md section 3 and the Appendix C vectors of section 2 -/

theorem test_isr_rows : invShiftRows (blockOf 0x7ad5fda789ef4e272bca100b3d9ff59f)
    = blockOf 0x7a9f102789d5f50b2beffd9f3dca4ea7 := by decide
theorem test_isb_last_row : invSubBytes (blockOf 0xf0f1f2f3f4f5f6f7f8f9fafbfcfdfeff)
    = blockOf 0x172b047eba77d626e169146355210c7d := by decide
theorem test_imc_columns : invMixColumns (blockOf 0x8e4da1bc9fdc589dd5d5d7d64d7ebdf8)
    = blockOf 0xdb135345f20a225cd4d4d4d52d26314c := by decide

/-- The forward MixColumns of Reference.lean, on the columns of R144. -/
theorem test_mixColumns : mixColumns (blockOf 0xdb135345f20a225cd4d4d4d52d26314c)
    = blockOf 0x8e4da1bc9fdc589dd5d5d7d64d7ebdf8 := by decide

/-! ## One step each, by 95_test_vectors.md sections 3 and 4 -/

theorem test_lds : (nextOf (exec .lds atStart)).map (·.sMat)
    = some (some (blockOf 0x69c4e0d86a7b0430d8cdb78070b4c55a)) := by decide

theorem test_sto_output :
    (nextOf (exec .sto (mid .store 0 (blockOf 0x00112233445566778899aabbccddeeff)))).map
      (fun t => (t.readBlock .out 0).toOption) = some (some (blockOf 0x00112233445566778899aabbccddeeff)) := by decide

theorem test_sto_status :
    (nextOf (exec .sto (mid .store 0 (blockOf 0)))).map (fun t => (t.status, t.ph, t.sMat)) = some (0x01, .idle, none) := by
  decide

theorem test_ark_first :
    (nextOf (exec (.ark 10) (withBlock (mid .ark 10 (blockOf 0x69c4e0d86a7b0430d8cdb78070b4c55a)) .rk 160
      (blockOf 0x13111d7fe3944a17f307a78b4d2b30c5)))).map (fun t => (t.sMat, t.ph, t.rnd))
      = some (some (blockOf 0x7ad5fda789ef4e272bca100b3d9ff59f), .isr, 9) := by decide

theorem test_ark_last :
    (nextOf (exec (.ark 0) (withBlock (mid .ark 0 (blockOf 0xffffffffffffffffffffffffffffffff)) .rk 0
      (blockOf 0x000102030405060708090a0b0c0d0e0f)))).map (fun t => (t.sMat, t.ph, t.rnd))
      = some (some (blockOf 0xfffefdfcfbfaf9f8f7f6f5f4f3f2f1f0), .store, 0) := by decide

theorem test_isr_step : (nextOf (step (mid .isr 9 (blockOf 0x000102030405060708090a0b0c0d0e0f)))).map
    (fun t => (t.sMat, t.ph, t.rnd)) = some (some (blockOf 0x000d0a0704010e0b0805020f0c090603), .isb, 9) := by decide

theorem test_isb_step : (nextOf (step (mid .isb 9 (blockOf 0x7a9f102789d5f50b2beffd9f3dca4ea7)))).map
    (fun t => (t.sMat, t.ph, t.rnd)) = some (some (blockOf 0xbd6e7c3df2b5779e0b61216e8b10b689), .ark, 9) := by decide

theorem test_imc_step : (nextOf (step (mid .imc 9 (blockOf 0xe9f74eec023020f61bf2ccf2353c21c7)))).map
    (fun t => (t.sMat, t.ph, t.rnd)) = some (some (blockOf 0x54d990a16ba09ab596bbf40ea111702f), .isr, 8) := by decide

theorem test_imc_last_round : (nextOf (step (mid .imc 1 (blockOf 0)))).map (fun t => (t.ph, t.rnd)) = some (.isr, 0) := by
  decide

theorem test_start_soft :
    (nextOf (step (withHost atStart [startTurn]))).map (fun t => (t.sMat, t.nrl, t.rnd, t.status, t.ph))
      = some (some (blockOf 0x69c4e0d86a7b0430d8cdb78070b4c55a), 12, 12, 0x04, .ark) := by decide

theorem test_start_stub :
    (nextOf (step (withHost (withBackend State.reset .altStub) [startTurn]))).map (fun t => (t.status, t.ph, t.mem))
      = some (0x02, .idle, []) := by decide

theorem test_start_while_busy :
    (nextOf (step (withHost (mid .isb 7 (blockOf 0)) [startTurn]))).map (fun t => (t.ph, t.rnd)) = some (.ark, 7) := by
  decide

theorem test_start_unwritten : faultOf (step (withHost State.reset [startTurn])) = some (.neverWritten .kl) := by decide

theorem test_start_kl3 :
    faultOf (step (withHost (withKl atStart 3) [startTurn])) = some .reservedKeyLength := by decide

theorem test_cnop_idle : nextOf (step (withHost atStart [{ cmd := some 0x00 }])) = some atStart := by decide

theorem test_nop_idle : nextOf (step atStart) = some atStart := by decide

theorem test_fail : (nextOf (exec .fail atStart)).map (fun t => (t.status, t.mem)) = some (0x02, atStart.mem) := by decide

theorem test_reserved_command :
    refusalOf (step (withHost atStart [{ cmd := some 0x02 }])) = some (.reservedWord (.reservedCommand 0x02)) := by decide

theorem test_reset_abandons :
    (nextOf (step (withHost (mid .imc 9 (blockOf 0)) [{ reset := true, cmd := some 0x01 }]))).map
      (fun t => (t.ph, t.rnd, t.nrl, t.status, t.sMat)) = some (.idle, 0, 0, 0x00, none) := by decide

theorem test_overlap_refused :
    refusalOf (step { State.reset with build := ⟨.soft, ⟨0, 64, 16, 63⟩⟩ }) = some .overlappingPlacement := by decide

/-! ## Every table row's word runs as the first step after reset (log 9) -/

/-- Whether the step that takes a table word goes on. -/
def runsFirst (w : Nat) : Bool := (nextOf (step (State.reset.withFetchWord 8 w))).isSome

theorem test_every_row_runs_first :
    ([0x00, 0x01, 0x20, 0x40, 0x60].all runsFirst && [0x80, 0xA0, 0xC0, 0xE0, 0x4E].all runsFirst) = true := by
  decide +kernel

/-! ## Witnesses: a state that meets the hypotheses of each statement -/

theorem witness_DecodeAndEncodeAgree :
    decode .micro 0x4E = .ok (.ark 14) ∧ (Instr.ark 14).format = .micro ∧ encode (.ark 14) = 0x4E ∧
      (Instr.ark 14).wellFormed = true := by decide

theorem witness_ReservedWordsAreRejected :
    2 ≤ (0x02 : Byte).toNat ∧ (0x10 : Byte).getLsbD 4 = true ∧
      ((0x01 : Byte).getLsbD 4 = false ∧ (0x01 : Byte).toNat / 32 ≠ 2 ∧ (0x01 : Byte).toNat % 16 ≠ 0) := by decide

theorem witness_StepRunsTheIssuedMicroOperation :
    let s := mid .isr 9 (blockOf 0)
    placeLegal s.build.place = true ∧ s.turn.reset = false ∧ s.turn.cmd = none ∧
      decode .micro s.sequencerWord = .ok .isr ∧ Instr.wellFormed .isr = true ∧ s.alt = none := by decide

/-- Each phase, ARK at the first and the last round key. -/
theorem witness_StepRunsTheIssuedMicroOperation_phases :
    State.reset.ph = .idle ∧ ((mid .ark 14 (blockOf 0)).ph = .ark ∧ (mid .ark 14 (blockOf 0)).rnd.toNat ≤ 14) ∧
      ((mid .ark 0 (blockOf 0)).ph = .ark ∧ (mid .ark 0 (blockOf 0)).rnd.toNat ≤ 14) ∧
      (mid .isr 9 (blockOf 0)).ph = .isr ∧ (mid .isb 9 (blockOf 0)).ph = .isb ∧ (mid .imc 9 (blockOf 0)).ph = .imc ∧
      (mid .store 0 (blockOf 0)).ph = .store := by decide

theorem witness_StepRunsAnAcceptedStart :
    let s := withHost atStart [startTurn]
    placeLegal s.build.place = true ∧ s.turn.reset = false ∧ s.turn.cmd = some 0x01 ∧ s.ph = .idle ∧
      s.build.backend ≠ .altReal ∧ s.alt = none := by decide

theorem witness_CommandsWithoutEffectAreLost_cnop : (withHost atStart [{ cmd := some 0x00 }]).turn.cmd = some 0x00 := by
  decide

theorem witness_CommandsWithoutEffectAreLost_start :
    let s := withHost (mid .isr 9 (blockOf 0)) [startTurn]
    s.turn.cmd = some 0x01 ∧ s.ph ≠ .idle := by decide

theorem witness_ReservedCommandIsRefused :
    let s := withHost atStart [{ cmd := some 0x02 }]
    placeLegal s.build.place = true ∧ s.turn.reset = false ∧ s.turn.cmd = some 0x02 ∧ 2 ≤ (0x02 : Byte).toNat := by decide

theorem witness_OutOverTheContextIsRefused_rk :
    let s := { State.reset with build := ⟨.soft, ⟨0, 64, 16, 303⟩⟩ }
    0 < 16 ∧ 239 < 240 ∧ s.locate .out 0 = s.locate .rk 239 := by decide

theorem witness_OutOverTheContextIsRefused_kl :
    let s := { State.reset with build := ⟨.soft, ⟨47, 64, 16, 32⟩⟩ }
    15 < 16 ∧ s.locate .out 15 = s.locate .kl 0 := by decide

theorem witness_InOverOutIsLegal :
    let p : Placement := ⟨0, 64, 16, 24⟩
    (∀ i j : Nat, i < 16 → j < 240 → p.out + i ≠ p.rk + j ∧ p.inp + i ≠ p.rk + j) ∧
      (∀ i : Nat, i < 16 → p.out + i ≠ p.kl ∧ p.inp + i ≠ p.kl) ∧ (∀ j : Nat, j < 240 → p.rk + j ≠ p.kl) := by
  refine ⟨fun i j hi hj => ?_, fun i hi => ?_, fun j hj => ?_⟩ <;> simp only <;> omega

theorem witness_ResetWinsOverEverything :
    let s := withHost (mid .imc 9 (blockOf 0)) [{ reset := true, cmd := some 0x01 }]
    placeLegal s.build.place = true ∧ s.turn.reset = true ∧ s.turn.writes = [] := by decide

/-- Reset with an alternate operation in flight and a host write in its turn (log 16, log 27). -/
theorem witness_ResetWinsOverEverything_alt :
    let s := withHost inFlight [{ writes := [.inp 0 7], reset := true }]
    placeLegal s.build.place = true ∧ s.turn.reset = true ∧
      (nextOf (step s)).map (fun t => (t.alt, t.hostReadIn 0)) = some (none, some 7) := by decide

theorem witness_StartBeginsASoftOperation :
    atStart.ph = .idle ∧ atStart.build.backend = .soft ∧ memRead atStart.mem (atStart.locate .kl 0) = some 0x01 ∧
      (0x01 : Byte).toNat % 4 = (keyLenCode .k192).toNat ∧
      ∀ i (hi : i < 16), memRead atStart.mem (atStart.locate .inp i)
        = some (blockOf 0x69c4e0d86a7b0430d8cdb78070b4c55a)[i] := by decide

theorem witness_StartOutsideItsContractFaults_never :
    State.reset.ph = .idle ∧ State.reset.build.backend = .soft ∧
      memRead State.reset.mem (State.reset.locate .kl 0) = none := by decide

theorem witness_StartOutsideItsContractFaults_kl3 :
    let s := withKl State.reset 3
    s.ph = .idle ∧ s.build.backend = .soft ∧ memRead s.mem (s.locate .kl 0) = some 0x03 ∧
      (0x03 : Byte).toNat % 4 = 3 := by decide

theorem witness_StartOutsideItsContractFaults_input :
    let s := withKl State.reset 2
    s.ph = .idle ∧ s.build.backend = .soft ∧ memRead s.mem (s.locate .kl 0) = some 0x02 ∧
      (0x02 : Byte).toNat % 4 ≠ 3 ∧ 15 < 16 ∧ memRead s.mem (s.locate .inp 15) = none := by decide

/-- In an ALT_REAL build: `KL` and `IN` in place, the last byte of the schedule of 12 rounds never written. -/
theorem witness_StartOutsideItsContractFaults_alt :
    let s := withBackend atStart .altReal
    s.ph = .idle ∧ s.build.backend = .altReal ∧ s.alt = none ∧ memRead s.mem (s.locate .kl 0) = some 0x01 ∧
      (0x01 : Byte).toNat % 4 = (keyLenCode .k192).toNat ∧
      (∀ i, i < 16 → (memRead s.mem (s.locate .inp i)).isSome = true) ∧ 207 < 16 * (keyLenRounds .k192 + 1) ∧
      memRead s.mem (s.locate .rk 207) = none ∧ faultOf (exec .start s) = some (.neverWritten .rk) := by decide

theorem witness_StartWhileAnOperationRunsIsIgnored_soft : (mid .isr 9 (blockOf 0)).ph ≠ .idle := by decide

theorem witness_StartWhileAnOperationRunsIsIgnored_alt :
    inFlight.build.backend = .altReal ∧ inFlight.alt.isSome = true := by decide

theorem witness_StubStartAlwaysFails :
    let s := withHost (withBackend State.reset .altStub) [startTurn]
    placeLegal s.build.place = true ∧ s.turn.reset = false ∧ s.turn.cmd = some 0x01 ∧ s.ph = .idle ∧
      s.build.backend = .altStub ∧ s.alt = none := by decide

/-- The context of `filled` is ready: every round key and the input are zeros, `KL` is K128. -/
theorem filled_ready : filled.Ready .k128 (fun _ => Vector.replicate 16 0) (Vector.replicate 16 0) := by
  have h : (filled.readKl = .ok .k128 ∧ filled.readBlock .inp 0 = .ok (Vector.replicate 16 0)) ∧
      ∀ k : Fin 11, filled.readBlock .rk (roundKeyIndex k.val) = .ok (Vector.replicate 16 0) := by decide +kernel
  exact ⟨h.1.1, h.1.2, fun k hk => h.2 ⟨k, by simp only [keyLenRounds] at hk; omega⟩⟩

theorem aliased_ready : aliased.Ready .k128 (fun _ => Vector.replicate 16 0) (Vector.replicate 16 0) := by
  have h : (aliased.readKl = .ok .k128 ∧ aliased.readBlock .inp 0 = .ok (Vector.replicate 16 0)) ∧
      ∀ k : Fin 11, aliased.readBlock .rk (roundKeyIndex k.val) = .ok (Vector.replicate 16 0) := by decide +kernel
  exact ⟨h.1.1, h.1.2, fun k hk => h.2 ⟨k, by simp only [keyLenRounds] at hk; omega⟩⟩

/-- Readiness looks at the storage and the placement alone. -/
theorem ready_of_same {s t : State} {kl : KeyLen} {rk : Nat → Block} {inp : Block} (h : s.Ready kl rk inp)
    (hm : t.mem = s.mem) (hp : t.build.place = s.build.place) : t.Ready kl rk inp := by
  have hl : ∀ sp i, t.locate sp i = s.locate sp i := fun sp i => by simp [State.locate, hp]
  have hb : ∀ sp i, t.readBlock sp i = s.readBlock sp i := fun sp i => by simp [State.readBlock, hm, hl]
  exact ⟨by rw [← h.keyLen]; simp [State.readKl, hm, hl], by rw [hb]; exact h.input,
    fun k hk => by rw [hb]; exact h.schedule k hk⟩

theorem witness_StartHandsOverToTheAlternateBackend :
    let s := withBackend filled .altReal
    s.ph = .idle ∧ s.build.backend = .altReal ∧ s.alt = none ∧
      s.Ready .k128 (fun _ => Vector.replicate 16 0) (Vector.replicate 16 0) :=
  ⟨rfl, rfl, rfl, ready_of_same filled_ready rfl rfl⟩

theorem witness_AlternateOperationEndsInOneOfTwoWays :
    let s := withHost (withBackend filled .altReal) [startTurn]
    placeLegal s.build.place = true ∧ s.host = [startTurn] ∧ s.ph = .idle ∧ s.build.backend = .altReal ∧ s.alt = none ∧
      s.Ready .k128 (fun _ => Vector.replicate 16 0) (Vector.replicate 16 0) :=
  ⟨by decide, rfl, rfl, rfl, rfl, ready_of_same filled_ready rfl rfl⟩

/-- A host that writes the schedule in use while the operation runs. -/
theorem witness_AlternateFailuresTakeTheSameTime :
    let turns : List HostTurn := [{ writes := [.rk 0 7], cmd := some (encode .start) }]
    let s := withHost (withBackend filled .altReal) (startTurn :: turns)
    placeLegal s.build.place = true ∧ s.host = startTurn :: turns ∧ startTurn.cmd = some (encode .start) ∧
      (∀ u ∈ startTurn :: turns, u.reset = false ∧
        (u.cmd = none ∨ u.cmd = some (encode .cnop) ∨ u.cmd = some (encode .start))) ∧
      s.ph = .idle ∧ s.build.backend = .altReal ∧ s.alt = none ∧
      s.afterHostWrites.Ready .k128 (fun _ => Vector.replicate 16 0) (Vector.replicate 16 0) :=
  ⟨by decide, rfl, rfl, by decide, rfl, rfl, rfl, ready_of_same filled_ready rfl rfl⟩

/-- A fixed operation that is to fail does so when its counts are 0, and the storage is as before. -/
theorem test_alternate_failure :
    (nextOf (step { inFlight with alt := some ⟨10, 0, none, false, some 0⟩ })).map (fun t => (t.alt, t.result, t.mem))
      = some (none, .featureUnsupported, []) := by decide

/-- A dirty operation past the step of a failure ends with a plaintext, whatever the free values are. -/
theorem test_no_late_failure (d : Nat) : ((⟨10, 0, none, true, none⟩ : AltOp).redrawn d).plain.isSome = true := rfl

theorem witness_LdsCopiesTheInput :
    ∀ i (hi : i < 16), memRead atStart.mem (atStart.locate .inp i)
      = some (blockOf 0x69c4e0d86a7b0430d8cdb78070b4c55a)[i] := by decide

theorem witness_LdsOfAnUnwrittenInputFaults : 15 < 16 ∧ memRead State.reset.mem (State.reset.locate .inp 15) = none := by
  decide

theorem witness_StoWritesTheOutputWhole : (mid .store 0 (blockOf 1)).sMat = some (blockOf 1) := by decide

/-- Also the hypotheses of the frame of ISR, ISB and IMC. -/
theorem witness_ArkAddsTheRoundKey :
    let s := withBlock (mid .ark 10 (blockOf 1)) .rk 160 (blockOf 2)
    10 ≤ s.nrl ∧ (10 : BitVec 4).toNat ≤ 14 ∧ s.rkDirty = false ∧ s.sMat = some (blockOf 1) ∧
      ∀ j (hj : j < 16), memRead s.mem (s.locate .rk (16 * (10 : BitVec 4).toNat + j)) = some (blockOf 2)[j] := by decide

theorem witness_ArkOnAnUnstableScheduleUsesAnyKey :
    let s := { mid .ark 9 (blockOf 1) with rkDirty := true }
    9 ≤ s.nrl ∧ s.rkDirty = true ∧ s.sMat = some (blockOf 1) := by decide

theorem witness_ArkStops_above : (mid .ark 9 (blockOf 0)).nrl < 11 := by decide

theorem witness_ArkStops_unwritten :
    let s := mid .ark 10 (blockOf 0)
    10 ≤ s.nrl ∧ (10 : BitVec 4).toNat ≤ 14 ∧ s.rkDirty = false ∧ 15 < 16 ∧
      memRead s.mem (s.locate .rk (16 * (10 : BitVec 4).toNat + 15)) = none := by decide

theorem witness_ArkStops_outside :
    let s := { mid .ark 15 (blockOf 0) with nrl := 15 }
    15 ≤ s.nrl ∧ s.rkDirty = false := by decide

/-- Also the hypotheses of the ARK clause of AnInvalidMatrixIsNeverUsed. -/
theorem witness_ArkStops_invalid :
    let s := { withBlock (mid .ark 10 (blockOf 1)) .rk 160 (blockOf 2) with sMat := none }
    10 ≤ s.nrl ∧ s.sMat = none ∧ (10 : BitVec 4).toNat ≤ 14 ∧
      (∀ j, j < 16 → (memRead s.mem (s.locate .rk (16 * (10 : BitVec 4).toNat + j))).isSome = true) ∧
      faultOf (exec (.ark 10) s) = some .invalidMatrix := by decide

theorem witness_IsrMovesBytesByTheIndexTable : (mid .isr 9 (blockOf 1)).sMat = some (blockOf 1) := by decide

theorem witness_IsbSubstitutesEveryByte : (mid .isb 9 (blockOf 1)).sMat = some (blockOf 1) := by decide

theorem witness_ImcMultipliesByTheMatrix : (mid .imc 9 (blockOf 1)).sMat = some (blockOf 1) := by decide

theorem witness_AnInvalidMatrixIsNeverUsed : State.reset.sMat = none := by decide

/-- A next state for each instruction, so that the frame statement is about all ten. -/
theorem witness_RegistersChangeOnlyByTheirInstructions :
    (nextOf (exec .cnop atStart)).isSome ∧ (nextOf (exec .start atStart)).isSome ∧
    (nextOf (exec .nop atStart)).isSome ∧ (nextOf (exec .lds atStart)).isSome ∧
    (nextOf (exec (.ark 10) (withBlock (mid .ark 10 (blockOf 1)) .rk 160 (blockOf 2)))).isSome ∧
    (nextOf (exec .isr (mid .isr 9 (blockOf 1)))).isSome ∧ (nextOf (exec .isb (mid .isb 9 (blockOf 1)))).isSome ∧
    (nextOf (exec .imc (mid .imc 9 (blockOf 1)))).isSome ∧ (nextOf (exec .sto (mid .store 0 (blockOf 1)))).isSome ∧
    (nextOf (exec .fail atStart)).isSome := by decide

theorem witness_OnlyTheStoreStepWritesTheOutput :
    let s := mid .imc 9 (blockOf 1)
    (nextOf (step s)).isSome ∧ s.turn.writes = [] ∧ s.build.backend ≠ .altReal ∧ s.alt = none ∧ s.ph ≠ .store := by
  decide

theorem witness_OnlyTheStoreStepWritesTheOutput_reset :
    let s := withHost (mid .store 0 (blockOf 1)) [{ reset := true }]
    (nextOf (step s)).isSome ∧ s.turn.writes = [] ∧ s.build.backend ≠ .altReal ∧ s.alt = none ∧ s.turn.reset = true := by
  decide

theorem witness_TheBuildNeverChanges : (nextOf (step (mid .imc 9 (blockOf 1)))).isSome := by decide

/-- Hypotheses of AnOperationComputesInvCipher and NothingShowsBeforeTheLastStep (there with `m` = 1 and `m` = 41). -/
theorem witness_AnOperation :
    let s := withHost filled [startTurn]
    placeLegal s.build.place = true ∧ s.host = [startTurn] ∧ s.ph = .idle ∧ s.build.backend = .soft ∧ s.alt = none ∧
      s.Ready .k128 (fun _ => Vector.replicate 16 0) (Vector.replicate 16 0) ∧
      1 ≤ 41 ∧ 41 ≤ 4 * keyLenRounds .k128 + 1 :=
  ⟨by decide, rfl, rfl, rfl, rfl, ready_of_same filled_ready rfl rfl, by decide, by decide⟩

/-- A turn that does all a harmless host may: rewrites `IN`, `KL`, `OUT` and the unused end of `RK`, writes START. -/
def busyTurn : HostTurn :=
  { writes := [.inp 0 1, .kl 2, .out 15 3, .rk 176 4], cmd := some (encode .start) }

/-- Also the hypotheses of AnOperationRunsDecrypt and CountsPerOperation. -/
theorem witness_AHarmlessHostCannotDisturbAnOperation :
    let s := withHost filled (startTurn :: List.replicate 41 busyTurn)
    placeLegal s.build.place = true ∧ s.host = startTurn :: List.replicate 41 busyTurn ∧ startTurn.reset = false ∧
      startTurn.cmd = some (encode .start) ∧ (List.replicate 41 busyTurn).length = 4 * keyLenRounds .k128 + 1 ∧
      (∀ t ∈ List.replicate 41 busyTurn, t.harmless (keyLenRounds .k128)) ∧ s.ph = .idle ∧
      s.build.backend = .soft ∧ s.alt = none ∧
      s.afterHostWrites.Ready .k128 (fun _ => Vector.replicate 16 0) (Vector.replicate 16 0) := by
  refine ⟨by decide, rfl, rfl, rfl, by decide, ?_, rfl, rfl, rfl, ready_of_same filled_ready rfl rfl⟩
  intro t ht
  rw [(List.mem_replicate.1 ht).2]
  exact ⟨rfl, .inr (.inr rfl), by decide⟩

theorem witness_AliasedBuffersAreSupported_soft :
    let s := withHost aliased [startTurn]
    placeLegal s.build.place = true ∧ s.build.place.out = s.build.place.inp ∧ s.host = [startTurn] ∧ s.ph = .idle ∧
      s.build.backend = .soft ∧ s.alt = none ∧
      s.Ready .k128 (fun _ => Vector.replicate 16 0) (Vector.replicate 16 0) :=
  ⟨by decide, rfl, rfl, rfl, rfl, rfl, ready_of_same aliased_ready rfl rfl⟩

theorem witness_AliasedBuffersAreSupported_stub :
    let s := withHost (withBackend aliased .altStub) [startTurn]
    placeLegal s.build.place = true ∧ s.build.place.out = s.build.place.inp ∧ s.host = [startTurn] ∧ s.ph = .idle ∧
      s.build.backend = .altStub ∧ s.alt = none ∧ s.readBlock .inp 0 = .ok (Vector.replicate 16 0) :=
  ⟨by decide, rfl, rfl, rfl, rfl, rfl, (ready_of_same aliased_ready rfl rfl).input⟩

/-- A state in the middle of an operation meets the invariant, and its step goes on: hypotheses of EveryStepKeepsInv,
RunsNeverStopInside and EveryStepBringsTheEndNearer. -/
theorem witness_Inv :
    let s := mid .imc 9 (blockOf 1)
    s.Inv ∧ s.ph ≠ .idle ∧ s.turn.reset = false ∧ (nextOf (step s)).isSome :=
  ⟨⟨List.Pairwise.nil, by decide, by decide, by decide, by decide, ⟨by decide, by decide⟩, by decide, by decide,
    by decide, fun _ h => nomatch h⟩, by decide, by decide, by decide⟩

/-- The invariant also holds of states whose step stops: RunsNeverStopInside says why it stops. -/
theorem witness_RunsNeverStopInside :
    let s := mid .ark 9 (blockOf 1)
    s.Inv ∧ faultOf (step s) = some (.neverWritten .rk) :=
  ⟨⟨List.Pairwise.nil, by decide, by decide, by decide, by decide, show (9 : BitVec 4) ≤ 10 by decide, by decide, by decide,
    by decide, fun _ h => nomatch h⟩, by decide⟩

/-- With an alternate operation in flight that is to fail: the clauses of the invariant about it. -/
theorem witness_Inv_alt :
    let s := { inFlight with alt := some ⟨10, 2, none, false, some 2⟩ }
    s.Inv ∧ (nextOf (step s)).isSome :=
  ⟨⟨List.Pairwise.nil, by decide, by decide, by decide, by decide, rfl, by decide, by decide, by decide,
    fun _ h _ => by cases h; rfl⟩, by decide⟩

theorem witness_TheSequenceDoesNotDependOnData :
    let s := mid .imc 9 (blockOf 1)
    let u := withBlock (mid .imc 9 (blockOf 2)) .rk 0 (blockOf 3)
    s.build = u.build ∧ s.build.backend = .soft ∧ s.host = u.host ∧ s.ph = u.ph ∧ s.rnd = u.rnd ∧ s.nrl = u.nrl ∧
      s.busy = u.busy ∧ s.result = u.result ∧ s.alt = none ∧ u.alt = none ∧
      s.afterHostWrites.readKl = u.afterHostWrites.readKl ∧ (nextOf (step s)).isSome ∧ (nextOf (step u)).isSome := by
  decide

theorem witness_StartForgetsEarlierOperations :
    atStart.ph = .idle ∧ atStart.build.backend = .soft ∧ (nextOf (exec .start atStart)).isSome := by decide

theorem witness_HostWritesReadBack : (5 : Nat) ≠ (State.reset.hostCell (.kl 1)).1 := by decide

/-- The last byte of a schedule of 10 rounds is in use, the one after it is not. -/
theorem witness_HostWritesLeaveTheRegisters :
    let s := mid .isr 9 (blockOf 0)
    s.ph ≠ .idle ∧ s.rkDirty = false ∧ (s.hostWrite (.rk 175 0)).rkDirty = true ∧
      (s.hostWrite (.rk 176 0)).rkDirty = false := by decide

/-- Two blocks that agree on column 2 and on row 1 and differ elsewhere: hypotheses of the last clauses. -/
theorem witness_InvMixColumnsProperties :
    let a := blockOf 0x000102030405060708090a0b0c0d0e0f
    let b := blockOf 0xff01ffffff05ffff08090a0bff0dffff
    a ≠ b ∧ (∀ r (hr : r < 4), a[4 * (2 : Fin 4).val + r] = b[4 * (2 : Fin 4).val + r]) ∧
      (∀ k (hk : k < 4), a[(1 : Fin 4).val + 4 * k] = b[(1 : Fin 4).val + 4 * k]) := by decide

/-- Also the hypothesis of OpcodeMapRowsDecode, at its end. -/
theorem witness_DecryptUndoesEncrypt : 1 ≤ 10 ∧ 1 ≤ 14 ∧ (14 : BitVec 4).toNat ≤ 14 := by decide

theorem witness_AnUnwrittenOutputReadsAsAnyValue :
    memRead State.reset.mem (State.reset.locate .out (15 : Fin 16).val) = none := by decide

/-! ## Whole blocks: 95_test_vectors.md sections 2.1 and 2.3 -/

/-- The AES-128 schedule of section 2.1. -/
def keys128 : List (BitVec 128) :=
  [0x000102030405060708090a0b0c0d0e0f, 0xd6aa74fdd2af72fadaa678f1d6ab76fe, 0xb692cf0b643dbdf1be9bc5006830b3fe,
   0xb6ff744ed2c2c9bf6c590cbf0469bf41]
  ++ [0x47f7f7bc95353e03f96c32bcfd058dfd, 0x3caaa3e8a99f9deb50f3af57adf622aa, 0x5e390f7df7a69296a7553dc10aa31f6b,
   0x14f9701ae35fe28c440adf4d4ea9c026]
  ++ [0x47438735a41c65b9e016baf4aebf7ad2, 0x549932d1f08557681093ed9cbe2c974e, 0x13111d7fe3944a17f307a78b4d2b30c5]

/-- The AES-256 schedule of section 2.3. -/
def keys256 : List (BitVec 128) :=
  [0x000102030405060708090a0b0c0d0e0f, 0x101112131415161718191a1b1c1d1e1f, 0xa573c29fa176c498a97fce93a572c09c,
   0x1651a8cd0244beda1a5da4c10640bade, 0xae87dff00ff11b68a68ed5fb03fc1567]
  ++ [0x6de1f1486fa54f9275f8eb5373b8518d, 0xc656827fc9a799176f294cec6cd5598b, 0x3de23a75524775e727bf9eb45407cf39,
   0x0bdc905fc27b0948ad5245a4c1871c2f, 0x45f5a66017b2d387300d4d33640a820a]
  ++ [0x7ccff71cbeb4fe5413e6bbf0d261a7df, 0xf01afafee7a82979d7a5644ab3afe640, 0x2541fe719bf500258813bbd55a721c0a,
   0x4e5a6699a9f24fe07e572baacdf8cdea, 0x24fc79ccbf0979e9371ac23c6d68de36]

theorem test_invCipher_aes128 :
    invCipher (fun k => blockOf (keys128.getD k 0)) 10 (blockOf 0x69c4e0d86a7b0430d8cdb78070b4c55a)
      = blockOf 0x00112233445566778899aabbccddeeff := by decide +kernel

theorem test_invCipher_aes256 :
    invCipher (fun k => blockOf (keys256.getD k 0)) 14 (blockOf 0x8ea2b7ca516745bfeafc49904b496089)
      = blockOf 0x00112233445566778899aabbccddeeff := by decide +kernel

end Sys2Proof.Tests
end

/-! # Proofs: the state of the block (10_state.md)

First what each instruction can do, said once as an inversion lemma; then what keeps the invariant, part of a step by part
of a step; then the obligations. -/

namespace Sys2Proof.Machine

variable {s t : State}

/-! ## What an instruction that goes on has done -/

theorem exec_cnop_next_iff : exec .cnop s = .next t ↔ t = s := by
  simp [exec, execCnop, eq_comm]

theorem exec_nop_next_iff : exec .nop s = .next t ↔ t = s := by
  simp [exec, execNop, eq_comm]

theorem exec_fail_next_iff : exec .fail s = .next t ↔ t = { s with result := .featureUnsupported } := by
  simp [exec, execFail, eq_comm, State.reportUnsupported, State.setResult]

theorem exec_lds_next_iff :
    exec .lds s = .next t ↔ ∃ b, s.readBlock .inp 0 = .ok b ∧ t = { s with sMat := some b } := by
  simp only [exec, execLds, onValue_next_iff, loadMatrix_ok_iff, Host.Outcome.next.injEq]
  exact ⟨fun ⟨_, ⟨b, hb, hu⟩, ht⟩ => ⟨b, hb, ht ▸ hu⟩, fun ⟨b, hb, ht⟩ => ⟨t, ⟨b, hb, ht⟩, rfl⟩⟩

theorem exec_isr (s : State) : exec .isr s = transform invShiftRows (·.setPhase .isb) s := rfl

theorem exec_isb (s : State) : exec .isb s = transform invSubBytes (·.setPhase .ark) s := rfl

theorem exec_imc (s : State) : exec .imc s = transform invMixColumns State.moveAfterImc s := rfl

theorem exec_isr_next_iff :
    exec .isr s = .next t ↔ ∃ b, s.sMat = some b ∧ t = { s with sMat := some (invShiftRows b), ph := .isb } :=
  exec_isr s ▸ transform_next_iff

theorem exec_isb_next_iff :
    exec .isb s = .next t ↔ ∃ b, s.sMat = some b ∧ t = { s with sMat := some (invSubBytes b), ph := .ark } :=
  exec_isb s ▸ transform_next_iff

theorem exec_imc_next_iff :
    exec .imc s = .next t ↔
      ∃ b, s.sMat = some b ∧ t = { s with sMat := some (invMixColumns b), rnd := s.rnd - 1, ph := .isr } :=
  exec_imc s ▸ transform_next_iff

theorem exec_sto_next_iff :
    exec .sto s = .next t ↔
      ∃ b, s.sMat = some b ∧
        t = { s with
              sMat := none, ph := .idle, busy := false, result := .ok
              mem := memWriteBlock s.mem (s.locate .out 0) b } := by
  simp only [exec, execSto, onValue_next_iff, readMatrix_ok_iff, Host.Outcome.next.injEq]
  exact exists_congr fun b => and_congr_right fun _ => eq_comm

/-- The sequencer's move after an ARK, as one update. -/
theorem moveAfterArk_eq (s : State) :
    s.moveAfterArk =
      { s with
        rnd := if s.rnd = s.nrl then s.rnd - 1 else s.rnd
        ph := if s.rnd = s.nrl then .isr else if s.rnd = 0 then .store else .imc } := by
  unfold State.moveAfterArk
  split_ifs <;> rfl

/-- The read of a round key changes nothing but the count of draws. -/
theorem readRoundKey_state {k : BitVec 4} {r : Block × State} (h : s.readRoundKey k = .ok r) :
    ∃ d, r.2 = { s with draws := d } := by
  rcases readRoundKey_ok_iff.1 h with ⟨-, rfl⟩ | ⟨-, -, hr⟩
  · exact ⟨s.draws + 1, rfl⟩
  · exact ⟨s.draws, hr⟩

/-- What ARK has done: with an index in the schedule in use, `S` is changed by the round key read, and the sequencer has
moved. -/
theorem exec_ark_next_iff {k : BitVec 4} :
    exec (.ark k) s = .next t ↔
      k ≤ s.nrl ∧ ∃ b r, s.sMat = some b ∧ s.readRoundKey k = .ok r ∧
        t = { s with
              sMat := some (xorBlock b r.1)
              rnd := if s.rnd = s.nrl then s.rnd - 1 else s.rnd
              ph := if s.rnd = s.nrl then .isr else if s.rnd = 0 then .store else .imc
              draws := r.2.draws } := by
  by_cases hk : s.nrl < k
  · simp [exec, execArk, hk, BitVec.not_le.2 hk]
  · simp only [exec, execArk, if_neg hk, BitVec.not_lt.1 hk, true_and, onValue_next_iff]
    constructor
    · rintro ⟨⟨key, u⟩, hr, hu⟩
      obtain ⟨d, rfl⟩ : ∃ d, u = { s with draws := d } := readRoundKey_state hr
      obtain ⟨b, hb, rfl⟩ := transform_next_iff.1 hu
      exact ⟨b, _, hb, hr, moveAfterArk_eq _⟩
    · rintro ⟨b, ⟨key, u⟩, hb, hr, rfl⟩
      obtain ⟨d, rfl⟩ : ∃ d, u = { s with draws := d } := readRoundKey_state hr
      exact ⟨_, hr, transform_next_iff.2 ⟨b, hb, by rw [moveAfterArk_eq]; rfl⟩⟩

theorem exec_start_of_running (h : s.ph ≠ .idle) : exec .start s = .next s := by
  simp [exec, execStart, h]

theorem exec_start_stub (h : s.ph = .idle) (hb : s.build.backend = .altStub) :
    exec .start s = .next { s with result := .featureUnsupported } := by
  simp [exec, execStart, h, hb, State.reportUnsupported, State.setResult]

theorem exec_start_soft (h : s.ph = .idle) (hb : s.build.backend = .soft) : exec .start s = s.beginSoft := by
  simp [exec, execStart, h, hb]

theorem exec_start_real (h : s.ph = .idle) (hb : s.build.backend = .altReal) : exec .start s = s.handToAlternate := by
  simp [exec, execStart, h, hb]

/-- START in a SOFT build: every register it does not set is one it leaves alone. -/
theorem beginSoft_next_iff :
    s.beginSoft = .next t ↔
      ∃ kl b, s.readKl = .ok kl ∧ s.readBlock .inp 0 = .ok b ∧
        t = { s with
              sMat := some b, ph := .ark, rnd := BitVec.ofNat 4 (keyLenRounds kl)
              nrl := BitVec.ofNat 4 (keyLenRounds kl), busy := true, result := .none, rkDirty := false } := by
  constructor
  · intro h
    obtain ⟨kl, hk, h⟩ := onValue_next_iff.1 h
    obtain ⟨u, hu, h⟩ := onValue_next_iff.1 h
    obtain ⟨b, hb, rfl⟩ := loadMatrix_ok_iff.1 hu
    cases h
    exact ⟨kl, b, hk, hb, rfl⟩
  · rintro ⟨kl, b, hk, hb, rfl⟩
    exact onValue_next_iff.2 ⟨kl, hk, onValue_next_iff.2 ⟨_, loadMatrix_ok_iff.2 ⟨b, hb, rfl⟩, rfl⟩⟩

/-- The operation a START of an ALT_REAL build puts in flight. -/
def AltOp.handedOver (kl : KeyLen) (keys : List Block) (inp : Block) (draw : Nat) : AltOp :=
  ⟨keyLenRounds kl, altSteps (altOutcome kl keys inp) draw, altOutcome kl keys inp, false, some Config.altFailSteps⟩

/-- An operation handed over that is to fail does so in the step of a failure (R195). -/
theorem handedOver_failIn {kl : KeyLen} {keys : List Block} {inp : Block} {draw : Nat}
    (h : (AltOp.handedOver kl keys inp draw).plain = none) :
    (AltOp.handedOver kl keys inp draw).failIn = some (AltOp.handedOver kl keys inp draw).left := by
  have ho : altOutcome kl keys inp = none := h
  simp [AltOp.handedOver, ho, altSteps]

/-- START in an ALT_REAL build is ignored while an operation is in flight; else it puts one there. -/
theorem handToAlternate_next_cases (h : s.handToAlternate = .next t) :
    (s.alt.isSome = true ∧ t = s) ∨
    (s.alt = none ∧ ∃ kl inp keys, s.readKl = .ok kl ∧ s.readBlock .inp 0 = .ok inp ∧
      s.readSchedule (keyLenRounds kl + 1) = .ok keys ∧
      t = { s with alt := some (.handedOver kl keys inp s.draws), result := .none, draws := s.draws + 1 }) := by
  unfold State.handToAlternate at h
  split at h
  case isTrue ha =>
    cases h
    exact .inl ⟨ha, rfl⟩
  case isFalse ha =>
    obtain ⟨kl, hk, h⟩ := onValue_next_iff.1 h
    obtain ⟨inp, hi, h⟩ := onValue_next_iff.1 h
    obtain ⟨keys, hs, h⟩ := onValue_next_iff.1 h
    cases h
    exact .inr ⟨Option.not_isSome_iff_eq_none.1 ha, kl, inp, keys, hk, hi, hs, rfl⟩

/-- Everything START can have done: nothing, while an operation runs, and else what the backend does. -/
theorem exec_start_next_cases (h : exec .start s = .next t) :
    (s.ph ≠ .idle ∧ t = s) ∨
    (s.ph = .idle ∧ s.build.backend = .altStub ∧ t = { s with result := .featureUnsupported }) ∨
    (s.ph = .idle ∧ s.build.backend = .soft ∧ s.beginSoft = .next t) ∨
    (s.ph = .idle ∧ s.build.backend = .altReal ∧ s.handToAlternate = .next t) := by
  by_cases hp : s.ph = .idle
  · cases hb : s.build.backend with
    | soft => exact .inr (.inr (.inl ⟨hp, rfl, exec_start_soft hp hb ▸ h⟩))
    | altStub =>
      rw [exec_start_stub hp hb] at h
      cases h
      exact .inr (.inl ⟨hp, rfl, rfl⟩)
    | altReal => exact .inr (.inr (.inr ⟨hp, rfl, exec_start_real hp hb ▸ h⟩))
  · rw [exec_start_of_running hp] at h
    cases h
    exact .inl ⟨hp, rfl⟩

/-! ## The round counter -/

theorem State.Inv.nrl_le (h : s.Inv) : s.nrl.toNat ≤ 14 := by
  rcases h.rounds with e | e | e | e <;> rw [e] <;> decide

/-- In phase ARK the counter names a round key of the schedule in use. -/
theorem State.Inv.rnd_le (h : s.Inv) (hp : s.ph = .ark) : s.rnd ≤ s.nrl := by
  simpa [roundFits, hp] using h.round

theorem State.Inv.rnd_toNat_le (h : s.Inv) (hp : s.ph = .ark) : s.rnd.toNat ≤ 14 :=
  Nat.le_trans (BitVec.le_def.1 (h.rnd_le hp)) h.nrl_le

/-- In a SOFT or an ALT_STUB build nothing is in flight. -/
theorem State.Inv.alt_none (h : s.Inv) (hb : s.build.backend ≠ .altReal) : s.alt = none :=
  Option.not_isSome_iff_eq_none.1 fun ha => hb (h.altBuild ha).1

/-- While an alternate operation is in flight the software datapath is idle. -/
theorem State.Inv.idle_of_alt (h : s.Inv) (ha : s.alt.isSome = true) : s.ph = .idle := by
  by_contra hp
  have hsoft := (h.running hp).1
  rw [(h.altBuild ha).1] at hsoft
  cases hsoft

/-! ## What keeps the invariant -/


/-- The invariant does not speak of the host's turns. -/
theorem State.Inv.dropTurn (h : s.Inv) : s.dropTurn.Inv := { h with }

/-- The invariant does not speak of the count of draws. -/
theorem State.Inv.countDraw (h : s.Inv) : s.countDraw.Inv := { h with }

/-- A host write changes the storage, which stays canonical, and the marks of a written schedule. -/
theorem State.Inv.hostWrite (h : s.Inv) (w : HostWrite) : (s.hostWrite w).Inv :=
  { h with
    memWf := memWrite_wf h.memWf _ _
    altBuild := fun ha => h.altBuild (by simpa [State.hostWrite] using ha)
    altFailTime := by
      intro op ho hp
      obtain ⟨op', ho', rfl⟩ := Option.map_eq_some_iff.1 ho
      exact h.altFailTime op' ho' hp }

theorem State.Inv.afterHostWrites (h : s.Inv) : s.afterHostWrites.Inv :=
  afterHostWrites_induct h.dropTurn fun _ w _ hu => hu.hostWrite w

theorem State.Inv.afterReset (h : s.Inv) : s.afterReset.Inv where
  memWf := h.memWf
  rounds := .inl rfl
  busyIff := by simp
  matrixIff := by simp
  running := by simp
  round := rfl
  altBuild := by simp
  softResult := by simp
  stubResult := by simp
  altFailTime := by simp

/-- While the software datapath is idle, `RESULT`, the storage and the operation in flight may change, as far as the
backend allows. -/
theorem State.Inv.idle_update {r : Result} {m : Memory} {a : Option AltOp} (h : s.Inv) (hp : s.ph = .idle)
    (hm : Memory.wf m) (hsoft : s.build.backend = .soft → r ≠ .featureUnsupported)
    (hstub : s.build.backend = .altStub → r ≠ .ok)
    (ha : a.isSome = true → s.build.backend = .altReal ∧ r = .none)
    (hf : ∀ op, a = some op → op.plain = none → op.failIn = some op.left) (d : Nat) :
    State.Inv { s with result := r, mem := m, alt := a, draws := d } :=
  { h with
    memWf := hm
    running := fun hn => absurd hp hn
    altBuild := ha
    softResult := hsoft
    stubResult := hstub
    altFailTime := hf }

/-- A transformation of a software operation moves `S`, `PH` and `RND`, and the operation goes on. -/
theorem State.Inv.running_update {p : Phase} {r : BitVec 4} (h : s.Inv) (hs : s.ph ≠ .idle) (hp : p ≠ .idle)
    (b : Block) (d : Nat) (hr : roundFits { s with ph := p, rnd := r }) :
    State.Inv { s with sMat := some b, ph := p, rnd := r, draws := d } :=
  { h with
    busyIff := iff_of_true (h.busyIff.2 hs) hp
    matrixIff := iff_of_true rfl hp
    running := fun _ => h.running hs
    round := hr }

/-- The end of a software operation. -/
theorem State.Inv.sto (h : s.Inv) (hp : s.ph = .store) (ht : exec .sto s = .next t) : t.Inv := by
  obtain ⟨b, -, rfl⟩ := exec_sto_next_iff.1 ht
  have hrun : s.ph ≠ .idle := by simp [hp]
  have hsoft := (h.running hrun).1
  have halt : s.alt = none := h.alt_none (by simp [hsoft])
  exact
    { memWf := memWriteBlock_wf h.memWf _ b
      rounds := h.rounds
      busyIff := by simp
      matrixIff := by simp
      running := by simp
      round := by simpa [roundFits, hp] using h.round
      altBuild := by simp [halt]
      softResult := by simp
      stubResult := by simp [hsoft]
      altFailTime := h.altFailTime }

/-- ARK's three moves: the first ARK leaves the counter one below `NRL`, that of round key 0 leaves it at 0 for STORE, and
any other leaves it between the two for IMC. -/
theorem State.Inv.ark (h : s.Inv) (hp : s.ph = .ark) {k : BitVec 4} (ht : exec (.ark k) s = .next t) : t.Inv := by
  obtain ⟨-, b, r, -, -, rfl⟩ := exec_ark_next_iff.1 ht
  have hrun : s.ph ≠ .idle := by simp [hp]
  have hn0 := (h.running hrun).2.1
  have hle := h.rnd_le hp
  refine h.running_update hrun ?_ _ r.2.draws ?_
  · split_ifs <;> simp
  · by_cases hn : s.rnd = s.nrl
    · simp only [roundFits, if_pos hn]
      bv_omega
    · by_cases h0 : s.rnd = 0
      · simp only [roundFits, if_neg hn, if_pos h0]
        exact h0
      · simp only [roundFits, if_neg hn, if_neg h0]
        bv_omega

/-- The sequencer's part of a step, by phase. -/
theorem State.Inv.sequencerStep (h : s.Inv) (ht : sequencerStep s = .next t) : t.Inv := by
  rw [sequencerStep_eq h.rnd_toNat_le] at ht
  have hround := h.round
  unfold roundFits at hround
  cases hp : s.ph <;> simp only [hp] at ht hround
  case idle => rwa [exec_nop_next_iff.1 ht]
  case ark => exact h.ark hp ht
  case isr =>
    obtain ⟨b, -, rfl⟩ := exec_isr_next_iff.1 ht
    exact h.running_update (by simp [hp]) (by simp) _ s.draws hround
  case isb =>
    obtain ⟨b, -, rfl⟩ := exec_isb_next_iff.1 ht
    exact h.running_update (by simp [hp]) (by simp) _ s.draws (BitVec.le_of_lt hround)
  case imc =>
    obtain ⟨b, -, rfl⟩ := exec_imc_next_iff.1 ht
    exact h.running_update (by simp [hp]) (by simp) _ s.draws (show s.rnd - 1 < s.nrl by bv_omega)
  case store => exact h.sto hp ht

/-- An accepted START of a SOFT build: the counter begins at `NRL`. -/
theorem State.Inv.beginSoft (h : s.Inv) (hb : s.build.backend = .soft) (ht : s.beginSoft = .next t) : t.Inv := by
  obtain ⟨kl, b, -, -, rfl⟩ := beginSoft_next_iff.1 ht
  have halt : s.alt = none := h.alt_none (by simp [hb])
  have hlatched : BitVec.ofNat 4 (keyLenRounds kl) = 10 ∨ BitVec.ofNat 4 (keyLenRounds kl) = 12 ∨
      BitVec.ofNat 4 (keyLenRounds kl) = 14 := by cases kl <;> decide
  exact
    { memWf := h.memWf
      rounds := .inr hlatched
      busyIff := by simp
      matrixIff := by simp
      running := fun _ => ⟨hb, by rcases hlatched with e | e | e <;> simp [e], rfl⟩
      round := BitVec.le_refl _
      altBuild := by simp [halt]
      softResult := by simp
      stubResult := by simp
      altFailTime := h.altFailTime }

theorem State.Inv.start (h : s.Inv) (ht : exec .start s = .next t) : t.Inv := by
  rcases exec_start_next_cases ht with ⟨-, rfl⟩ | ⟨hp, hb, rfl⟩ | ⟨-, hb, hs⟩ | ⟨hp, hb, hs⟩
  · exact h
  · exact h.idle_update hp h.memWf (by simp [hb]) (by simp) (by simp [h.alt_none, hb]) h.altFailTime s.draws
  · exact h.beginSoft hb hs
  · rcases handToAlternate_next_cases hs with ⟨-, rfl⟩ | ⟨-, kl, inp, keys, -, -, -, rfl⟩
    · exact h
    · refine h.idle_update hp h.memWf (by simp) (by simp) (by simp [hb]) ?_ (s.draws + 1)
      rintro _ ⟨⟩
      exact handedOver_failIn

/-- One step of an alternate operation: it ends, in success or in the failure, or both its counts go down. -/
theorem State.Inv.tickAlt (h : s.Inv) (ha : s.alt.isSome = true) {op : AltOp}
    (hop : op.plain = none → op.failIn = some op.left) : (s.tickAlt op).Inv := by
  have hp := h.idle_of_alt ha
  obtain ⟨hreal, hres⟩ := h.altBuild ha
  rcases tickAlt_cases (s := s) op with ⟨-, e⟩ | ⟨hleft, e⟩
  · rw [e]
    rcases settleAlt_eq (s := s) op.plain with ⟨b, -, e⟩ | ⟨-, e⟩ <;> rw [e]
    · exact h.idle_update (a := none) hp (memWriteBlock_wf h.memWf _ b) (by simp) (by simp [hreal]) (by simp) (by simp)
        s.draws
    · exact h.idle_update (a := none) hp h.memWf (by simp [hreal]) (by simp) (by simp) (by simp) s.draws
  · rw [e]
    refine h.idle_update hp h.memWf (by simp [hres]) (by simp [hres]) (fun _ => ⟨hreal, hres⟩) ?_ s.draws
    rintro _ ⟨⟩ hfail
    rw [later_failIn_iff, hop hfail, later_left]
    congr 1
    omega

/-- An operation drawn anew that is to fail does so in the step of a failure (R195). -/
theorem redrawn_failIn {op : AltOp} {d : Nat} (h : (op.redrawn d).plain = none) :
    (op.redrawn d).failIn = some (op.redrawn d).left := by
  rcases redrawn_cases op d with ⟨b, e⟩ | ⟨f, hf, e⟩ <;> rw [e] at h ⊢
  · cases h
  · exact hf

theorem State.Inv.altTick (h : s.Inv) : s.altTick.Inv := by
  rcases altTick_cases s with ⟨-, e⟩ | ⟨op, ho, -, e⟩ | ⟨op, ho, -, e⟩ <;> rw [e]
  · exact h
  · exact h.tickAlt (by simp [ho]) (h.altFailTime op ho)
  · exact h.countDraw.tickAlt (by simp [ho]) redrawn_failIn

/-- Settles O47: the host's writes, reset, an accepted START, the micro-operation and the alternate backend each keep the
invariant. -/
theorem everyStepKeepsInv : Obligations.EveryStepKeepsInv := by
  intro s t h hstep
  have hw := h.afterHostWrites
  obtain ⟨-, ⟨-, rfl⟩ | ⟨-, -, -, u, hu, rfl⟩ | ⟨-, u, hu, rfl⟩⟩ := step_next_cases hstep
  · exact hw.afterReset
  · exact (hw.start hu).altTick
  · exact (hw.sequencerStep hu).altTick

/-! ## What an instruction leaves alone -/

/-- Settles O31: what each instruction has done, as its inversion lemma says it, touches no other register. -/
theorem registersChangeOnlyByTheirInstructions : Obligations.RegistersChangeOnlyByTheirInstructions := by
  intro i s t h
  cases i with
  | cnop => rw [exec_cnop_next_iff.1 h]; simp
  | nop => rw [exec_nop_next_iff.1 h]; simp
  | start =>
    rcases exec_start_next_cases h with ⟨-, rfl⟩ | ⟨-, -, rfl⟩ | ⟨-, -, hs⟩ | ⟨-, -, hs⟩
    · simp
    · simp
    · obtain ⟨kl, b, -, -, rfl⟩ := beginSoft_next_iff.1 hs
      simp
    · rcases handToAlternate_next_cases hs with ⟨-, rfl⟩ | ⟨-, kl, inp, keys, -, -, -, rfl⟩ <;> simp
  | lds => obtain ⟨b, -, rfl⟩ := exec_lds_next_iff.1 h; simp
  | ark k => obtain ⟨-, b, r, -, -, rfl⟩ := exec_ark_next_iff.1 h; simp
  | isr => obtain ⟨b, -, rfl⟩ := exec_isr_next_iff.1 h; simp
  | isb => obtain ⟨b, -, rfl⟩ := exec_isb_next_iff.1 h; simp
  | imc => obtain ⟨b, -, rfl⟩ := exec_imc_next_iff.1 h; simp
  | sto =>
    obtain ⟨b, -, rfl⟩ := exec_sto_next_iff.1 h
    have hout : ∀ a, ¬ s.inOut a → memRead (memWriteBlock s.mem (s.locate .out 0) b) a = memRead s.mem a :=
      fun a ha => memRead_memWriteBlock_outside s.mem _ b a ha
    simpa using hout
  | fail => rw [exec_fail_next_iff.1 h]; simp

/-! ## Why a step stops -/

/-- A fault that comes of what the host wrote, or did not write, to the context and the input. -/
def Fault.OfHost (e : Fault) : Prop := (∃ sp, e = .neverWritten sp) ∨ e = .reservedKeyLength

/-- An outcome that is no stop, or a fault of the host's making. -/
def StopsOnlyByHost : StepOutcome → Prop
  | .next _ => True
  | .fault e => e.OfHost
  | .refused _ => False

theorem StopsOnlyByHost.of_next {o : StepOutcome} (h : o = .next t) : StopsOnlyByHost o := h ▸ trivial

theorem StopsOnlyByHost.onValue {α : Type} {r : Except Fault α} {f : α → StepOutcome}
    (hr : ∀ e, r = .error e → e.OfHost) (hf : ∀ a, r = .ok a → StopsOnlyByHost (f a)) :
    StopsOnlyByHost (onValue r f) := by
  cases r with
  | ok a => exact hf a rfl
  | error e => exact hr e rfl

theorem readBlock_error_ofHost {sp : Space} {i : Nat} {e : Fault} (hi : i + 16 ≤ sp.size)
    (h : s.readBlock sp i = .error e) : e.OfHost := .inl ⟨sp, readBlock_error hi h⟩

/-- Round keys 0 to 14 lie in `RK`. -/
theorem roundKeyIndex_fits {k : Nat} (hk : k ≤ 14) : roundKeyIndex k + 16 ≤ Space.rk.size := by
  simp only [roundKeyIndex, Space.size]; omega

theorem readKl_error_ofHost {e : Fault} (h : s.readKl = .error e) : e.OfHost :=
  (readKl_error h).imp (fun h => ⟨.kl, h⟩) id

theorem readSchedule_error_ofHost {n : Nat} {e : Fault} (hn : n ≤ 15) (h : s.readSchedule n = .error e) : e.OfHost := by
  obtain ⟨k, hk, hr⟩ := readSchedule_error h
  exact readBlock_error_ofHost (roundKeyIndex_fits (by omega)) hr

theorem readRoundKey_error_ofHost {k : BitVec 4} {e : Fault} (hk : k.toNat ≤ 14) (h : s.readRoundKey k = .error e) :
    e.OfHost := by
  unfold State.readRoundKey at h
  split at h
  · cases h
  · split at h
    · cases h
    · rename_i hr
      cases h
      exact readBlock_error_ofHost (roundKeyIndex_fits hk) hr

theorem loadMatrix_error_ofHost {e : Fault} (h : s.loadMatrix = .error e) : e.OfHost :=
  readBlock_error_ofHost (by decide) (loadMatrix_error_iff.1 h)

theorem keyLenRounds_le (kl : KeyLen) : keyLenRounds kl ≤ 14 := by cases kl <;> decide

theorem beginSoft_stopsOnlyByHost (s : State) : StopsOnlyByHost s.beginSoft :=
  .onValue (fun _ => readKl_error_ofHost) fun _ _ => .onValue (fun _ => loadMatrix_error_ofHost) fun _ _ => trivial

theorem handToAlternate_stopsOnlyByHost (s : State) : StopsOnlyByHost s.handToAlternate := by
  unfold State.handToAlternate
  split
  · trivial
  · exact .onValue (fun _ => readKl_error_ofHost) fun kl _ =>
      .onValue (fun _ => readBlock_error_ofHost (by decide)) fun _ _ =>
      .onValue (fun _ => readSchedule_error_ofHost (Nat.succ_le_succ (keyLenRounds_le kl))) fun _ _ => trivial

theorem exec_start_stopsOnlyByHost (s : State) : StopsOnlyByHost (exec .start s) := by
  by_cases hp : s.ph = .idle
  · cases hb : s.build.backend with
    | soft => exact exec_start_soft hp hb ▸ beginSoft_stopsOnlyByHost s
    | altStub => exact .of_next (exec_start_stub hp hb)
    | altReal => exact exec_start_real hp hb ▸ handToAlternate_stopsOnlyByHost s
  · exact .of_next (exec_start_of_running hp)

/-- ARK with an index in the schedule and a valid `S` stops on an unwritten round key alone. -/
theorem exec_ark_stopsOnlyByHost {k : BitVec 4} {b : Block} (hk : k ≤ s.nrl) (hk14 : k.toNat ≤ 14)
    (hb : s.sMat = some b) : StopsOnlyByHost (exec (.ark k) s) := by
  simp only [exec, execArk, if_neg (BitVec.not_lt.2 hk)]
  refine .onValue (fun _ => readRoundKey_error_ofHost hk14) fun r hr => ?_
  obtain ⟨d, hd⟩ := readRoundKey_state hr
  exact .of_next (transform_next_iff.2 ⟨b, by simp [hd, hb], rfl⟩)

/-- While a software operation runs `S` has a value to read (R22). -/
theorem State.Inv.matrix (h : s.Inv) (hp : s.ph ≠ .idle) : ∃ b, s.sMat = some b :=
  Option.isSome_iff_exists.1 (h.matrixIff.2 hp)

/-- From the invariant the sequencer issues no reserved word, no ARK above `NRL` and no read of an invalid `S`. -/
theorem State.Inv.sequencerStep_stopsOnlyByHost (h : s.Inv) : StopsOnlyByHost (Machine.sequencerStep s) := by
  rw [sequencerStep_eq h.rnd_toNat_le]
  by_cases hidle : s.ph = .idle
  · rw [hidle]
    trivial
  · obtain ⟨b, hb⟩ := h.matrix hidle
    cases hp : s.ph with
    | idle => exact absurd hp hidle
    | ark => exact exec_ark_stopsOnlyByHost (h.rnd_le hp) (h.rnd_toNat_le hp) hb
    | isr => exact .of_next (exec_isr_next_iff.2 ⟨b, hb, rfl⟩)
    | isb => exact .of_next (exec_isb_next_iff.2 ⟨b, hb, rfl⟩)
    | imc => exact .of_next (exec_imc_next_iff.2 ⟨b, hb, rfl⟩)
    | store => exact .of_next (exec_sto_next_iff.2 ⟨b, hb, rfl⟩)

/-- From the invariant the part of a step after the host's writes stops only by the host: a reserved command is its own. -/
theorem State.Inv.commandStep_stops (h : s.Inv) (cmd : Option Byte) :
    StopsOnlyByHost (commandStep cmd s) ∨
      ∃ w, cmd = some w ∧ commandStep cmd s = .refused (.reservedWord (.reservedCommand w)) := by
  rcases commandStep_cases cmd s with ⟨-, e⟩ | ⟨-, -, e⟩ | ⟨w, hw, -, -, e⟩
  · exact .inl (e ▸ h.sequencerStep_stopsOnlyByHost)
  · exact .inl (e ▸ exec_start_stopsOnlyByHost s)
  · exact .inr ⟨w, hw, e⟩

/-- What a step comes to: it is refused for its placement, it is a reset, or it goes on or stops as the command and the
micro-operation do. -/
theorem step_cases (s : State) :
    step s = .refused .overlappingPlacement ∨ step s = .next s.afterHostWrites.afterReset ∨
      step s = andThen (commandStep s.turn.cmd s.afterHostWrites) fun t => .next t.altTick := by
  unfold step
  split_ifs
  · exact .inr (.inl rfl)
  · exact .inr (.inr rfl)
  · exact .inl rfl

/-- Settles O48: by the parts of a step, each of which stops only by what the host did. -/
theorem runsNeverStopInside : Obligations.RunsNeverStopInside := by
  intro s h
  have hcmd := h.afterHostWrites.commandStep_stops s.turn.cmd
  rcases step_cases s with e | e | e <;> rw [e]
  · exact ⟨by simp, fun _ he => .inl (by simpa using he.symm)⟩
  · exact ⟨by simp, by simp⟩
  · rcases hcmd with hstop | ⟨w, hw, e⟩
    · cases ho : commandStep s.turn.cmd s.afterHostWrites <;> rw [ho] at hstop
      case next => exact ⟨by simp [andThen], by simp [andThen]⟩
      case fault e =>
        refine ⟨fun e' he => ?_, by simp [andThen]⟩
        cases he
        exact hstop
      case refused => exact hstop.elim
    · rw [e]
      exact ⟨by simp [andThen], fun _ he => .inr ⟨w, hw, by simpa [andThen] using he.symm⟩⟩

/-! ## Reset -/

/-- Settles O11: each field of `State.reset` as R45 gives it. -/
theorem stateAfterReset : Obligations.StateAfterReset :=
  ⟨rfl, rfl, rfl, rfl, rfl, rfl, by decide, rfl, fun _ => rfl⟩

/-- Settles O46: nothing is listed, running or in flight. -/
theorem invAfterReset : Obligations.InvAfterReset where
  memWf := reset_mem_wf
  rounds := .inl rfl
  busyIff := by decide
  matrixIff := by decide
  running := by decide
  round := rfl
  altBuild := by decide
  softResult := by decide
  stubResult := by decide
  altFailTime := by rintro _ ⟨⟩

/-! ## An invalid `S` -/

theorem transform_of_invalid {f : Block → Block} {move : State → State} (h : s.sMat = none) :
    transform f move s = .fault .invalidMatrix := transform_fault_iff.2 ⟨h, rfl⟩

/-- Settles O30: each of the five reads `S` before it writes anything. -/
theorem anInvalidMatrixIsNeverUsed : Obligations.AnInvalidMatrixIsNeverUsed := by
  intro s h
  refine ⟨(exec_isr s).trans (transform_of_invalid h), (exec_isb s).trans (transform_of_invalid h),
    (exec_imc s).trans (transform_of_invalid h), ?_, fun k r hk hr => ?_⟩
  · exact onValue_fault_iff.2 (.inl (readMatrix_error_iff.2 ⟨h, rfl⟩))
  · obtain ⟨d, hd⟩ := readRoundKey_state hr
    simp only [exec, execArk, if_neg (BitVec.not_lt.2 hk), hr, onValue]
    exact transform_of_invalid (by simp [hd, h])

/-! ## START and earlier operations -/

/-- Settles O51: `beginSoft_next_iff` gives the next state from the storage and the build, and sets the rest. -/
theorem startForgetsEarlierOperations : Obligations.StartForgetsEarlierOperations := by
  intro s t m r n b res d hp hb h
  rw [exec_start_soft hp hb] at h
  obtain ⟨kl, inp, hk, hi, rfl⟩ := beginSoft_next_iff.1 h
  refine (exec_start_soft ?_ ?_).trans (beginSoft_next_iff.2 ⟨kl, inp, hk, hi, rfl⟩)
  · exact hp
  · exact hb

/-! ## The inverse S-box -/

/-- The affine map of the forward S-box (R39). -/
def sboxAffine (t : Byte) : Byte := t ^^^ rotl t 1 ^^^ rotl t 2 ^^^ rotl t 3 ^^^ rotl t 4 ^^^ 0x63

/-- The inverse affine map (R39). -/
def invSboxAffine (y : Byte) : Byte := rotl y 1 ^^^ rotl y 3 ^^^ rotl y 6 ^^^ 0x05

theorem sbox_eq_affine_gfInv (y : Byte) : sbox y = sboxAffine (gfInv y) := rfl

theorem invSboxAffine_sboxAffine : ∀ t : Byte, invSboxAffine (sboxAffine t) = t := by decide +kernel

theorem invSbox_eq_gfInv_affine : ∀ y : Byte, invSbox y = gfInv (invSboxAffine y) := by decide +kernel

/-- The table read at the affine image is the field inverse, so that no other fact about the field is needed. -/
theorem gfInv_eq_invSbox_affine (t : Byte) : gfInv t = invSbox (sboxAffine t) := by
  rw [invSbox_eq_gfInv_affine, invSboxAffine_sboxAffine]

theorem invSbox_affine_involutive : ∀ y : Byte, invSbox (sboxAffine (invSbox (sboxAffine y))) = y := by decide +kernel

theorem invSbox_sbox : Function.LeftInverse invSbox sbox := by
  intro y
  rw [sbox_eq_affine_gfInv, gfInv_eq_invSbox_affine, invSbox_affine_involutive]

/-- On the 256 bytes a left inverse is a right inverse too. -/
theorem sbox_invSbox : Function.RightInverse invSbox sbox :=
  invSbox_sbox.rightInverse_of_surjective (Finite.injective_iff_surjective.1 invSbox_sbox.injective)

theorem invSbox_ne_self : ∀ y : Byte, invSbox y ≠ y := by decide +kernel

/-- Settles O35: the formula and the lack of a fixed point byte by byte, the two inversions from one. -/
theorem theInverseSboxIsItsFormula : Obligations.TheInverseSboxIsItsFormula := fun y =>
  ⟨invSbox_eq_gfInv_affine y, invSbox_sbox y, sbox_invSbox y, invSbox_ne_self y⟩

/-! ## The host's ports -/

/-- Settles O52: by the values of the fields `STATUS` and `CFG` are made of. -/
theorem statusAndCfgRead : Obligations.StatusAndCfgRead := by
  intro s
  constructor
  · unfold State.status
    cases s.busy <;> cases s.result <;> decide
  · unfold State.cfg
    cases s.build.backend <;> decide

@[simp] theorem hostWrite_locate (w : HostWrite) (sp : Space) (i : Nat) : (s.hostWrite w).locate sp i = s.locate sp i :=
  rfl

/-- The location a host write hits reads as the byte written there. -/
theorem hostWrite_read_same (w : HostWrite) : memRead (s.hostWrite w).mem (s.hostCell w).1 = some (s.hostCell w).2 := by
  simp [hostWrite_read]

/-- Settles O53: a read after a write at the same location, and at any other. -/
theorem hostWritesReadBack : Obligations.HostWritesReadBack := by
  intro s
  refine ⟨fun v => ?_, fun i v => ?_, fun i v => ?_, fun i v => ?_, fun w a ha => ?_⟩
  · have hread : memRead (s.hostWrite (.kl v)).mem (s.locate .kl 0) = some (v &&& 0x03) := hostWrite_read_same (.kl v)
    simp [State.hostReadKl, hread, BitVec.and_assoc]
  · exact hostWrite_read_same (.rk i v)
  · exact hostWrite_read_same (.inp i v)
  · have hread : memRead (s.hostWrite (.out i v)).mem (s.locate .out i) = some v := hostWrite_read_same (.out i v)
    simp [State.hostReadOut, hread]
  · rw [hostWrite_read, if_neg ha]

/-- The writes that hit the schedule of `nr` rounds are those to the first `16 (nr + 1)` bytes of `RK`. -/
theorem hitsSchedule_iff {nr : Nat} {w : HostWrite} :
    hitsSchedule nr w = true ↔ ∃ i v, w = .rk i v ∧ i.val < 16 * (nr + 1) := by
  cases w <;> simp [hitsSchedule]

/-- Settles O54: the registers by the field lemmas of a host write, the mark by `hitsSchedule_iff`. -/
theorem hostWritesLeaveTheRegisters : Obligations.HostWritesLeaveTheRegisters := by
  intro s w
  refine ⟨rfl, rfl, rfl, rfl, rfl, rfl, fun hp hd => ?_⟩
  rw [← hitsSchedule_iff]
  simp [State.hostWrite, hp, hd]

end Sys2Proof.Machine

/-! # Proofs: the shared storage (20_memory.md)

First the placement and what one step leaves alone; then a software operation under way, as a predicate that the host's
writes and every step but the last keep; then the obligations about a whole operation. -/

namespace Sys2Proof.Machine

variable {s t u : State}

/-! ## The placement -/

/-- Two runs of locations without a common one lie one after the other. -/
theorem runs_apart {a b m n : Nat} (hm : 0 < m) (hn : 0 < n) (h : ∀ i j, i < m → j < n → a + i ≠ b + j) :
    a + m ≤ b ∨ b + n ≤ a := by
  by_contra hover
  exact h (b - a) (a - b) (by omega) (by omega) (by omega)

/-- Settles O9: the runs that must be apart have no common location. -/
theorem inOverOutIsLegal : Obligations.InOverOutIsLegal := by
  intro p hrk hkl hrkkl
  have apartFromKl : ∀ {a m : Nat}, 0 < m → (∀ i, i < m → a + i ≠ p.kl) → a + m ≤ p.kl ∨ p.kl + 1 ≤ a :=
    fun hm h => runs_apart hm one_pos fun i j hi hj => by have := h i hi; omega
  refine placeLegal_iff.2 ⟨?_, ?_, ?_, ?_, ?_⟩
  · exact runs_apart (by decide) (by decide) fun i j hi hj => (hrk i j hi hj).1
  · exact apartFromKl (by decide) fun i hi => (hkl i hi).1
  · exact runs_apart (by decide) (by decide) fun i j hi hj => (hrk i j hi hj).2
  · exact apartFromKl (by decide) fun i hi => (hkl i hi).2
  · exact apartFromKl (by decide) hrkkl

theorem step_of_not_placeLegal (h : ¬ placeLegal s.build.place = true) : step s = .refused .overlappingPlacement :=
  if_neg h

/-- Settles O8: a legal placement has `OUT` apart from `RK` and from `KL`, so it has no such byte. -/
theorem outOverTheContextIsRefused : Obligations.OutOverTheContextIsRefused := by
  intro s i j hi hover
  refine step_of_not_placeLegal fun hlegal => ?_
  obtain ⟨hrk, hkl, -⟩ := placeLegal_iff.1 hlegal
  simp only [State.locate, placeBase] at hover
  omega

/-- Where a space stands depends on the build alone. -/
theorem locate_congr {sp : Space} {i : Nat} (h : t.build = s.build) : t.locate sp i = s.locate sp i := by
  rw [State.locate, State.locate, h]

/-! ## ARK on an unstable schedule -/

/-- Settles O25: the read of the round key is the free value of this draw. -/
theorem arkOnAnUnstableScheduleUsesAnyKey : Obligations.ArkOnAnUnstableScheduleUsesAnyKey := by
  intro s k b hk hdirty hb
  exact exec_ark_next_iff.2 ⟨hk, b, _, hb, readRoundKey_ok_iff.2 (.inl ⟨hdirty, rfl⟩), rfl⟩

/-! ## What a step does, by its command -/

/-- In a step in which the sequencer goes on in phase ARK, its word is no reserved one. -/
theorem rnd_le_of_sequencerStep_next (h : sequencerStep s = .next t) (hp : s.ph = .ark) : s.rnd.toNat ≤ 14 := by
  by_contra hr
  have h15 : s.rnd = 15 := by bv_omega
  have hd : decode .micro s.sequencerWord = .error (.arkIndex15 0x4F) := by
    simp only [State.sequencerWord, hp, h15]
    decide
  simp [sequencerStep, hd] at h

/-- The sequencer executes one micro-operation, which is STO in phase STORE alone. -/
theorem sequencerStep_next_exec (h : sequencerStep s = .next t) :
    ∃ i, exec i s = .next t ∧ i ≠ .start ∧ (i = .sto → s.ph = .store) := by
  rw [sequencerStep_eq (rnd_le_of_sequencerStep_next h)] at h
  cases hp : s.ph <;> rw [hp] at h <;> exact ⟨_, h, by simp, by simp⟩

/-- START of a SOFT or an ALT_STUB build leaves the storage and the alternate backend alone. -/
theorem exec_start_mem_alt (hb : s.build.backend ≠ .altReal) (h : exec .start s = .next t) :
    t.mem = s.mem ∧ t.alt = s.alt := by
  rcases exec_start_next_cases h with ⟨-, rfl⟩ | ⟨-, -, rfl⟩ | ⟨-, -, hs⟩ | ⟨-, hr, -⟩
  · exact ⟨rfl, rfl⟩
  · exact ⟨rfl, rfl⟩
  · obtain ⟨kl, b, -, -, rfl⟩ := beginSoft_next_iff.1 hs
    exact ⟨rfl, rfl⟩
  · exact absurd hr hb

/-- Outside phase STORE the sequencer leaves the storage and the alternate backend alone. -/
theorem sequencerStep_mem_alt (hp : s.ph ≠ .store) (h : sequencerStep s = .next t) :
    t.mem = s.mem ∧ t.alt = s.alt := by
  obtain ⟨i, hi, hstart, hsto⟩ := sequencerStep_next_exec h
  obtain ⟨-, -, -, hkept, -, -, -, hmem, -⟩ := registersChangeOnlyByTheirInstructions i s t hi
  exact ⟨hmem fun e => hp (hsto e), (hkept hstart).2.1⟩

/-- Settles O32: neither reset nor an accepted START nor a micro-operation other than STO writes the storage, and the
alternate backend has nothing to deliver. -/
theorem onlyTheStoreStepWritesTheOutput : Obligations.OnlyTheStoreStepWritesTheOutput := by
  intro s t h hw hb halt hp
  obtain ⟨-, hcases⟩ := step_next_cases h
  rw [afterHostWrites_of_no_writes hw] at hcases
  rcases hcases with ⟨-, rfl⟩ | ⟨-, -, -, u, hu, rfl⟩ | ⟨hr, u, hu, rfl⟩
  · rfl
  · obtain ⟨hmem, hualt⟩ := exec_start_mem_alt (s := s.dropTurn) hb hu
    rwa [altTick_of_none (hualt.trans halt)]
  · obtain ⟨hmem, hualt⟩ := sequencerStep_mem_alt (s := s.dropTurn) (hp.resolve_right (by simp [hr])) hu
    rwa [altTick_of_none (hualt.trans halt)]

theorem afterHostWrites_ph : s.afterHostWrites.ph = s.ph := afterHostWrites_frame.2.1

theorem afterHostWrites_build : s.afterHostWrites.build = s.build := by
  obtain ⟨-, -, -, -, -, -, hbuild, -⟩ := afterHostWrites_frame (s := s)
  exact hbuild

theorem afterHostWrites_host : s.afterHostWrites.host = s.host.tail := by
  obtain ⟨-, -, -, -, -, -, -, -, hhost⟩ := afterHostWrites_frame (s := s)
  exact hhost

/-- An accepted START whose effect leaves nothing in flight is the whole of its step (R161). -/
theorem step_of_start (hl : placeLegal s.build.place = true) (hr : s.turn.reset = false)
    (hc : s.turn.cmd = some (encode .start)) (hp : s.ph = .idle) (hx : exec .start s.afterHostWrites = .next t)
    (ha : t.alt = none) : step s = .next t := by
  have hp' : s.afterHostWrites.ph = .idle := afterHostWrites_ph.trans hp
  simp [step, hl, hr, hc, commandStep, decode_startWord, hp', hx, andThen, ha]

/-- With no command, or one without effect, the step is the sequencer's (R162, R169). -/
theorem step_of_sequencer (hl : placeLegal s.build.place = true) (hr : s.turn.reset = false)
    (hc : s.turn.cmd = none ∨ s.turn.cmd = some (encode .cnop) ∨ s.turn.cmd = some (encode .start)) (hp : s.ph ≠ .idle)
    (hx : sequencerStep s.afterHostWrites = .next t) (ha : t.alt = none) : step s = .next t := by
  have hcmd : commandStep s.turn.cmd s.afterHostWrites = sequencerStep s.afterHostWrites := by
    rcases commandStep_cases s.turn.cmd s.afterHostWrites with ⟨-, e⟩ | ⟨-, hi, -⟩ | ⟨w, hw, h0, h1, -⟩
    · exact e
    · exact absurd (afterHostWrites_ph ▸ hi) hp
    · simp [hw, h0, h1] at hc
  simp [step, hl, hr, hcmd, hx, andThen, ha]

/-! ## Runs -/

theorem run_succ (h : step s = .next t) (n : Nat) : Host.Core.run core (n + 1) s = Host.Core.run core n t := by
  have hstep : core.step s = .next t := h
  simp [Host.Core.run, hstep]

/-- A run goes on from where a shorter one ends. -/
theorem run_add {m : Nat} (h : Host.Core.run core m s = .next u) (n : Nat) :
    Host.Core.run core (m + n) s = Host.Core.run core n u := by
  induction m generalizing s with
  | zero => cases h; rw [Nat.zero_add]
  | succ m ih =>
    cases hs : step s with
    | next t => rw [run_succ hs] at h; rw [Nat.succ_add, run_succ hs, ih h]
    | fault e =>
      have hstep : core.step s = .fault e := hs
      simp [Host.Core.run, hstep] at h
    | refused e =>
      have hstep : core.step s = .refused e := hs
      simp [Host.Core.run, hstep] at h

/-! ## A software operation under way -/

/-- The rest of an operation from the ARK of round key `r` on, after the first ARK (R166). -/
def roundsFromArk (rk : Nat → Block) : Nat → Block → Block
  | 0, x => xorBlock x (rk 0)
  | r + 1, x => invRounds rk (r + 1) (invMixColumns (xorBlock x (rk (r + 1))))

/-- A round is ISR, ISB, and the rest from its ARK on. -/
theorem invRounds_succ (rk : Nat → Block) (r : Nat) (x : Block) :
    invRounds rk (r + 1) x = roundsFromArk rk r (invSubBytes (invShiftRows x)) := by
  cases r <;> rfl

theorem roundsFromArk_of_pos {rk : Nat → Block} {r : Nat} (hr : 0 < r) (x : Block) :
    roundsFromArk rk r x = invRounds rk r (invMixColumns (xorBlock x (rk r))) := by
  cases r with
  | zero => cases hr
  | succ r => rfl

/-- What a software operation comes to that stands where `PH` and `RND` say and has `x` in `S`. -/
def State.plaintextFrom (s : State) (rk : Nat → Block) (x : Block) : Block :=
  match s.ph with
  | .idle => x
  | .ark =>
    if s.rnd = s.nrl then invRounds rk s.rnd.toNat (xorBlock x (rk s.rnd.toNat)) else roundsFromArk rk s.rnd.toNat x
  | .isr => invRounds rk (s.rnd.toNat + 1) x
  | .isb => roundsFromArk rk s.rnd.toNat (invSubBytes x)
  | .imc => invRounds rk s.rnd.toNat (invMixColumns x)
  | .store => x

/-- A software operation under way that is `n` steps from its end and comes to `plain`, by a schedule nobody has written
since START. -/
structure State.Operating (s : State) (kl : KeyLen) (rk : Nat → Block) (plain : Block) (n : Nat) : Prop where
  legal : placeLegal s.build.place = true
  running : s.ph ≠ .idle
  busy : s.busy = true
  result : s.result = .none
  alt : s.alt = none
  clean : s.rkDirty = false
  rounds : s.nrl.toNat = keyLenRounds kl
  round : roundFits s
  left : s.stepsLeft = n
  /-- What `S` holds leads to `plain` by the rest of R166. -/
  matrix : ∃ x, s.sMat = some x ∧ s.plaintextFrom rk x = plain
  schedule : ∀ k, k ≤ keyLenRounds kl → s.readBlock .rk (roundKeyIndex k) = .ok (rk k)

section Operating

variable {kl : KeyLen} {rk : Nat → Block} {plain inp : Block} {n : Nat}

theorem keyLenRounds_pos (kl : KeyLen) : 0 < keyLenRounds kl := by cases kl <;> decide

theorem ofNat_keyLenRounds_toNat (kl : KeyLen) : (BitVec.ofNat 4 (keyLenRounds kl)).toNat = keyLenRounds kl := by
  cases kl <;> decide

/-- `STATUS` reads 0x04 as long as the operation runs. -/
theorem State.Operating.status (h : s.Operating kl rk plain n) : s.status = 0x04 := by
  rw [State.status, h.busy, h.result]
  decide

/-! ### The host's writes -/

/-- In a legal placement a write that spares the schedule in use hits none of its locations. -/
theorem hostCell_ne_schedule {w : HostWrite} {i : Nat} (hl : placeLegal s.build.place = true)
    (hw : hitsSchedule (keyLenRounds kl) w = false) (hi : i < 16 * (keyLenRounds kl + 1)) :
    s.locate .rk i ≠ (s.hostCell w).1 := by
  obtain ⟨hout, -, hinp, -, hkl⟩ := placeLegal_iff.1 hl
  have h14 := keyLenRounds_le kl
  cases w with
  | rk j v =>
    have hj : ¬ j.val < 16 * (keyLenRounds kl + 1) := by simpa [hitsSchedule] using hw
    simp only [State.hostCell, State.locate, placeBase]
    omega
  | kl v | inp j v | out j v =>
    simp only [State.hostCell, State.locate, placeBase]
    omega

theorem State.Operating.dropTurn (h : s.Operating kl rk plain n) : s.dropTurn.Operating kl rk plain n := { h with }

/-- A host write that spares the schedule in use cannot disturb the operation (R171, R252). -/
theorem State.Operating.hostWrite (h : s.Operating kl rk plain n) {w : HostWrite}
    (hw : hitsSchedule (keyLenRounds kl) w = false) : (s.hostWrite w).Operating kl rk plain n :=
  { h with
    alt := by simp [State.hostWrite, h.alt]
    clean := by simp [State.hostWrite, h.clean, h.rounds, hw]
    schedule := fun k hk => by
      rw [← h.schedule k hk]
      refine readBlock_congr rfl fun j hj => ?_
      rw [hostWrite_read, if_neg]
      have hloc := hostCell_ne_schedule h.legal hw (show 16 * k + j < 16 * (keyLenRounds kl + 1) by omega)
      simpa [State.locate, roundKeyIndex, Nat.add_assoc] using hloc }

theorem State.Operating.afterHostWrites (h : s.Operating kl rk plain n)
    (hw : ∀ w ∈ s.turn.writes, hitsSchedule (keyLenRounds kl) w = false) :
    s.afterHostWrites.Operating kl rk plain n :=
  afterHostWrites_induct (P := fun u => u.Operating kl rk plain n) h.dropTurn
    fun _ w hmem hu => hu.hostWrite (hw w hmem)

/-! ### The sequencer's steps -/

/-- One micro-operation on: `S`, `RND` and `PH` move, the way to the plaintext is kept and a step shorter. -/
theorem State.Operating.moveOn {p : Phase} {r : BitVec 4} {x : Block} (h : s.Operating kl rk plain (n + 1))
    (hp : p ≠ .idle) (hr : roundFits ((s.setRound r).setPhase p))
    (hx : ((s.setRound r).setPhase p).plaintextFrom rk x = plain)
    (hn : ((s.setRound r).setPhase p).stepsLeft + 1 = s.stepsLeft) :
    State.Operating { s with sMat := some x, rnd := r, ph := p } kl rk plain n :=
  { h with
    running := hp
    round := hr
    left := Nat.succ_injective (hn.trans h.left)
    matrix := ⟨x, rfl, hx⟩ }

/-- The operation is in phase STORE exactly in its last step. -/
theorem State.Operating.store_iff (h : s.Operating kl rk plain n) : s.ph = .store ↔ n = 1 := by
  have hpos := keyLenRounds_pos kl
  have hround := h.round
  have hrounds := h.rounds
  rw [← h.left]
  unfold roundFits at hround
  unfold State.stepsLeft
  cases hp : s.ph <;> simp only [hp, reduceCtorEq, false_iff] at hround ⊢
  case ark =>
    split_ifs with hfirst
    · bv_omega
    · omega
  case isr => omega
  case isb => omega
  case imc => bv_omega

theorem State.Operating.rnd_le (h : s.Operating kl rk plain n) (hp : s.ph = .ark) : s.rnd.toNat ≤ keyLenRounds kl := by
  have hround : s.rnd ≤ s.nrl := by simpa [roundFits, hp] using h.round
  exact h.rounds ▸ BitVec.le_def.1 hround

/-- An ARK of the operation adds the round key its counter names, which nobody has written since START. -/
theorem State.Operating.exec_ark (h : s.Operating kl rk plain (n + 1)) (hp : s.ph = .ark) :
    ∃ x r p, exec (.ark s.rnd) s = .next { s with sMat := some x, rnd := r, ph := p } ∧
      State.Operating { s with sMat := some x, rnd := r, ph := p } kl rk plain n := by
  obtain ⟨x, hx, hplain⟩ := h.matrix
  have hpos := keyLenRounds_pos kl
  have hrounds := h.rounds
  have hle := h.rnd_le hp
  have hkey : s.readRoundKey s.rnd = .ok (rk s.rnd.toNat, s) :=
    readRoundKey_ok_iff.2 (.inr ⟨h.clean, h.schedule _ hle, rfl⟩)
  refine ⟨_, _, _, exec_ark_next_iff.2 ⟨BitVec.le_def.2 (hrounds ▸ hle), x, _, hx, hkey, rfl⟩, ?_⟩
  simp only [State.plaintextFrom, hp] at hplain
  by_cases hfirst : s.rnd = s.nrl
  · have hdec : (s.rnd - 1).toNat + 1 = s.rnd.toNat := by bv_omega
    simp only [if_pos hfirst] at hplain ⊢
    refine h.moveOn (by simp) ?_ ?_ ?_
    · show s.rnd - 1 < s.nrl
      bv_omega
    · show invRounds rk ((s.rnd - 1).toNat + 1) _ = plain
      rw [hdec, hplain]
    · simp only [State.stepsLeft, hp, if_pos hfirst, State.setPhase_ph, State.setPhase_rnd, State.setRound_rnd]
      omega
  · by_cases hlast : s.rnd = 0
    · simp only [if_neg hfirst, if_pos hlast] at hplain ⊢
      refine h.moveOn (by simp) hlast ?_ ?_
      · rw [← hplain, hlast]; rfl
      · simp only [State.stepsLeft, hp, if_neg hfirst, State.setPhase_ph]
        rw [hlast]
        rfl
    · have hr : 0 < s.rnd ∧ s.rnd < s.nrl := by bv_omega
      simp only [if_neg hfirst, if_neg hlast] at hplain ⊢
      refine h.moveOn (by simp) hr ?_ ?_
      · rw [← hplain, roundsFromArk_of_pos hr.1]; rfl
      · simp [State.stepsLeft, hp, hfirst]

/-- Each micro-operation but STO does its part of R166. -/
theorem State.Operating.sequencerStep (h : s.Operating kl rk plain (n + 1)) (hn : 1 ≤ n) :
    ∃ x r p, sequencerStep s = .next { s with sMat := some x, rnd := r, ph := p } ∧
      State.Operating { s with sMat := some x, rnd := r, ph := p } kl rk plain n := by
  obtain ⟨x, hx, hplain⟩ := h.matrix
  have hround := h.round
  unfold roundFits at hround
  unfold State.plaintextFrom at hplain
  rw [sequencerStep_eq fun hp => (h.rnd_le hp).trans (keyLenRounds_le kl)]
  cases hp : s.ph <;> simp only [hp] at hplain hround ⊢
  case idle => exact absurd hp h.running
  case ark => exact h.exec_ark hp
  case isr =>
    refine ⟨_, _, _, exec_isr_next_iff.2 ⟨x, hx, rfl⟩, h.moveOn (by simp) hround ?_ ?_⟩
    · rw [← hplain, invRounds_succ]; rfl
    · simp [State.stepsLeft, hp]
  case isb =>
    refine ⟨_, _, _, exec_isb_next_iff.2 ⟨x, hx, rfl⟩, h.moveOn (by simp) (BitVec.le_of_lt hround) ?_ ?_⟩
    · simpa [State.plaintextFrom, BitVec.ne_of_lt hround] using hplain
    · simp [State.stepsLeft, hp, BitVec.ne_of_lt hround]
  case imc =>
    have hdec : (s.rnd - 1).toNat + 1 = s.rnd.toNat := by bv_omega
    refine ⟨_, _, _, exec_imc_next_iff.2 ⟨x, hx, rfl⟩, h.moveOn (by simp) (show s.rnd - 1 < s.nrl by bv_omega) ?_ ?_⟩
    · show invRounds rk ((s.rnd - 1).toNat + 1) _ = plain
      rw [hdec, hplain]
    · simp only [State.stepsLeft, hp, State.setPhase_ph, State.setPhase_rnd, State.setRound_rnd]
      omega
  case store => exact absurd (h.store_iff.1 hp) (by omega)

/-! ### The steps -/

/-- The coming turn is one of the host's list, or the idle one at its end. -/
theorem turn_of_forall {P : HostTurn → Prop} (hidle : P {}) (hh : ∀ v ∈ s.host, P v) : P s.turn := by
  unfold State.turn
  cases he : s.host with
  | nil => exact hidle
  | cons v vs => exact hh v (by simp [he])

theorem turn_harmless {nr : Nat} (hh : ∀ v ∈ s.host, v.harmless nr) : s.turn.harmless nr :=
  turn_of_forall ⟨rfl, .inl rfl, by simp⟩ hh

/-- Every step of the operation but the last, beside a host that keeps its duties. -/
theorem State.Operating.step (h : s.Operating kl rk plain (n + 1)) (hn : 1 ≤ n)
    (ht : s.turn.harmless (keyLenRounds kl)) :
    ∃ t, step s = .next t ∧ t.Operating kl rk plain n ∧ t.mem = s.afterHostWrites.mem ∧ t.build = s.build ∧
      t.host = s.host.tail := by
  obtain ⟨hreset, hcmd, hwrites⟩ := ht
  have hw := h.afterHostWrites hwrites
  obtain ⟨x, r, p, hseq, hop⟩ := hw.sequencerStep hn
  exact ⟨_, step_of_sequencer h.legal hreset hcmd h.running hseq hw.alt, hop, rfl, afterHostWrites_build,
    afterHostWrites_host⟩

/-- The last step is STO's: it delivers the plaintext (R101). -/
theorem State.Operating.step_last (h : s.Operating kl rk plain 1) (ht : s.turn.harmless (keyLenRounds kl)) :
    Machine.step s = .next { s.afterHostWrites with
      sMat := none, ph := .idle, busy := false, result := .ok
      mem := memWriteBlock s.afterHostWrites.mem (s.afterHostWrites.locate .out 0) plain } := by
  obtain ⟨hreset, hcmd, hwrites⟩ := ht
  have hw := h.afterHostWrites hwrites
  have hp : s.afterHostWrites.ph = .store := hw.store_iff.2 rfl
  obtain ⟨x, hx, hplain⟩ := hw.matrix
  have hxp : x = plain := by simpa [State.plaintextFrom, hp] using hplain
  refine step_of_sequencer h.legal hreset hcmd h.running ?_ hw.alt
  rw [sequencerStep_eq (by simp [hp]), hp]
  exact exec_sto_next_iff.2 ⟨x, hx, by rw [hxp]⟩

/-! ### The run -/

/-- The operation after `m` of its steps, the last one still to come. -/
theorem State.Operating.run (hn : 1 ≤ n) {m : Nat} (h : s.Operating kl rk plain (n + m))
    (hh : ∀ v ∈ s.host, v.harmless (keyLenRounds kl)) :
    ∃ u, Host.Core.run core m s = .next u ∧ u.Operating kl rk plain n ∧ u.build = s.build ∧
      (∀ v ∈ u.host, v.harmless (keyLenRounds kl)) ∧ ((∀ v ∈ s.host, v.writes = []) → u.mem = s.mem) := by
  induction m generalizing s with
  | zero => exact ⟨s, rfl, h, rfl, hh, fun _ => rfl⟩
  | succ m ih =>
    obtain ⟨t, hstep, hop, hmem, hbuild, hhost⟩ := h.step (Nat.le_add_right_of_le hn) (turn_harmless hh)
    have htail : ∀ {P : HostTurn → Prop}, (∀ v ∈ s.host, P v) → ∀ v ∈ t.host, P v :=
      fun hP v hv => hP v (List.mem_of_mem_tail (hhost ▸ hv))
    obtain ⟨u, hrun, hu, hubuild, huhost, humem⟩ := ih hop (htail hh)
    refine ⟨u, (run_succ hstep m).trans hrun, hu, hubuild.trans hbuild, huhost, fun hquiet => ?_⟩
    have hturn : s.turn.writes = [] := turn_of_forall (P := (·.writes = [])) rfl hquiet
    rw [humem (htail hquiet), hmem, afterHostWrites_of_no_writes hturn, State.dropTurn_mem]

/-- The operation at its end. -/
theorem State.Operating.run_to_end (h : s.Operating kl rk plain (n + 1))
    (hh : ∀ v ∈ s.host, v.harmless (keyLenRounds kl)) :
    ∃ t, Host.Core.run core (n + 1) s = .next t ∧ t.readBlock .out 0 = .ok plain ∧ t.result = .ok ∧ t.busy = false ∧
      t.ph = .idle ∧ t.build = s.build := by
  obtain ⟨u, hrun, hop, hbuild, huhost, -⟩ := State.Operating.run le_rfl (Nat.add_comm n 1 ▸ h) hh
  refine ⟨_, (run_add hrun 1).trans (run_succ (hop.step_last (turn_harmless huhost)) 0), ?_, rfl, rfl, rfl,
    afterHostWrites_build.trans hbuild⟩
  exact readBlock_ok_iff.2 ⟨by decide, memRead_memWriteBlock_inside _ _ plain⟩

/-! ## Whole operations -/

/-- The coming step accepts a START of a SOFT build, once the host has filled its buffers: what the statements about a
whole operation suppose (R161, R243). -/
structure State.BeginsOperation (s : State) (kl : KeyLen) (rk : Nat → Block) (inp : Block) : Prop where
  legal : placeLegal s.build.place = true
  noReset : s.turn.reset = false
  command : s.turn.cmd = some (encode .start)
  idle : s.ph = .idle
  soft : s.build.backend = .soft
  noAlt : s.alt = none
  ready : s.afterHostWrites.Ready kl rk inp

/-- The step of an accepted START begins the operation (R161). -/
theorem State.BeginsOperation.step (h : s.BeginsOperation kl rk inp) :
    ∃ t, step s = .next t ∧ t.Operating kl rk (invCipher rk (keyLenRounds kl) inp) (4 * keyLenRounds kl + 1) ∧
      t.mem = s.afterHostWrites.mem ∧ t.build = s.build ∧ t.host = s.host.tail := by
  have hnr := ofNat_keyLenRounds_toNat kl
  have halt := afterHostWrites_alt_none h.noAlt
  have hexec := (exec_start_soft (afterHostWrites_ph.trans h.idle) (by rw [afterHostWrites_build, h.soft])).trans
    (beginSoft_next_iff.2 ⟨kl, inp, h.ready.keyLen, h.ready.input, rfl⟩)
  refine ⟨_, step_of_start h.legal h.noReset h.command h.idle hexec halt, ?_, rfl, afterHostWrites_build,
    afterHostWrites_host⟩
  exact
    { legal := by rw [afterHostWrites_build, h.legal]
      running := by simp
      busy := rfl
      result := rfl
      alt := halt
      clean := rfl
      rounds := hnr
      round := BitVec.le_refl _
      left := by simp only [State.stepsLeft, if_pos, hnr]
      matrix := ⟨inp, rfl, by simp only [State.plaintextFrom, if_pos, hnr, invCipher]⟩
      schedule := h.ready.schedule }

/-- A block read gives each byte of the block at its location. -/
theorem memRead_of_readBlock {sp : Space} {b : Block} (h : s.readBlock sp 0 = .ok b) (i : Nat) (hi : i < 16) :
    memRead s.mem (s.locate sp i) = some b[i] := by
  simpa [State.locate] using (readBlock_ok_iff.1 h).2 i hi

/-- With `OUT` at the place of `IN` the one is read where the other is (R59). -/
theorem readBlock_inp_of_aliased {b : Block} (h : s.build.place.out = s.build.place.inp)
    (hout : s.readBlock .out 0 = .ok b) : s.readBlock .inp 0 = .ok b := by
  have hloc : s.locate .inp 0 = s.locate .out 0 := by simp only [State.locate, placeBase, h]
  obtain ⟨-, hread⟩ := readBlock_ok_iff.1 hout
  exact readBlock_ok_iff.2 ⟨by decide, hloc ▸ hread⟩

theorem turn_of_host {first : HostTurn} {turns : List HostTurn} (h : s.host = first :: turns) : s.turn = first := by
  rw [State.turn, h, List.headD_cons]

/-- With nothing but START in the turn, only the turn is used up. -/
theorem afterHostWrites_of_startTurn (h : s.host = [startTurn]) : s.afterHostWrites = s.dropTurn :=
  afterHostWrites_of_no_writes (by rw [turn_of_host h]; rfl)

/-- A host that writes START and is idle from then on. -/
theorem beginsOperation_of_startTurn (hl : placeLegal s.build.place = true) (hhost : s.host = [startTurn])
    (hp : s.ph = .idle) (hb : s.build.backend = .soft) (ha : s.alt = none) (hready : s.Ready kl rk inp) :
    s.BeginsOperation kl rk inp where
  legal := hl
  noReset := by rw [turn_of_host hhost]; rfl
  command := by rw [turn_of_host hhost]; rfl
  idle := hp
  soft := hb
  noAlt := ha
  ready := by
    rw [afterHostWrites_of_startTurn hhost]
    exact ⟨hready.keyLen, hready.input, hready.schedule⟩

/-- An operation from the step of START to its end, beside a host that keeps its duties. -/
theorem State.BeginsOperation.run_to_end (h : s.BeginsOperation kl rk inp)
    (hh : ∀ v ∈ s.host.tail, v.harmless (keyLenRounds kl)) :
    ∃ t, Host.Core.run core (4 * keyLenRounds kl + 2) s = .next t ∧
      t.readBlock .out 0 = .ok (invCipher rk (keyLenRounds kl) inp) ∧ t.result = .ok ∧ t.busy = false ∧
      t.ph = .idle ∧ t.build = s.build := by
  obtain ⟨u, hstep, hop, -, hbuild, hhost⟩ := h.step
  obtain ⟨t, hrun, hout, hres, hbusy, hidle, htbuild⟩ := hop.run_to_end (hhost ▸ hh)
  exact ⟨t, (run_succ hstep _).trans hrun, hout, hres, hbusy, hidle, htbuild.trans hbuild⟩

end Operating

/-- Settles O44: no turn that keeps its duties disturbs the operation. -/
theorem aHarmlessHostCannotDisturbAnOperation : Obligations.AHarmlessHostCannotDisturbAnOperation := by
  intro s first turns kl rk inp hl hhost hr hc _ hh hp hb ha hready
  have hturn := turn_of_host hhost
  have hbegin : s.BeginsOperation kl rk inp := ⟨hl, hturn ▸ hr, hturn ▸ hc, hp, hb, ha, hready⟩
  obtain ⟨t, hrun, hout, hres, hbusy, hidle, hbuild⟩ := hbegin.run_to_end (by rwa [hhost, List.tail_cons])
  exact ⟨t, hrun, fun i hi => locate_congr hbuild ▸ memRead_of_readBlock hout i hi, hres, hbusy, hidle⟩

/-- Settles O43: after START the host is idle, and no step before STO's writes the storage. -/
theorem nothingShowsBeforeTheLastStep : Obligations.NothingShowsBeforeTheLastStep := by
  intro s kl rk inp m hl hhost hp hb ha hready hm1 hm
  obtain ⟨t, hstep, hop, hmem, -, hthost⟩ := (beginsOperation_of_startTurn hl hhost hp hb ha hready).step
  rw [afterHostWrites_of_startTurn hhost, State.dropTurn_mem] at hmem
  have hquiet : t.host = [] := by rw [hthost, hhost]; rfl
  obtain ⟨k, rfl⟩ : ∃ k, m = k + 1 := ⟨m - 1, by omega⟩
  obtain ⟨u, hrun, hu, -, -, humem⟩ := State.Operating.run (n := 4 * keyLenRounds kl + 1 - k) (m := k) (by omega)
    (by rwa [Nat.sub_add_cancel (by omega)]) (by simp [hquiet])
  exact ⟨u, (run_succ hstep k).trans hrun, hu.status, (humem (by simp [hquiet])).trans hmem⟩

/-- Settles O45: a success leaves the plaintext in `OUT`, where `IN` is; a failure writes no byte of the storage. -/
theorem aliasedBuffersAreSupported : Obligations.AliasedBuffersAreSupported := by
  constructor
  · intro s kl rk inp hl halias hhost hp hb ha hready
    obtain ⟨t, hrun, hout, hres, -, -, hbuild⟩ :=
      (beginsOperation_of_startTurn hl hhost hp hb ha hready).run_to_end (by simp [hhost])
    exact ⟨t, hrun, hres, readBlock_inp_of_aliased (by rw [hbuild, halias]) hout⟩
  · intro s inp hl _ hhost hp hb ha hinp
    have hturn := turn_of_host hhost
    have hexec : exec .start s.afterHostWrites = .next { s.dropTurn with result := .featureUnsupported } := by
      rw [afterHostWrites_of_startTurn hhost]
      exact exec_start_stub hp hb
    exact ⟨_, step_of_start hl (by rw [hturn]; rfl) (by rw [hturn]; rfl) hp hexec ha, rfl, hinp⟩

end Sys2Proof.Machine

/-! # Proofs: the encodings (30_encoding.md)

First the fields of a word and the words they make; then the decoder as the inverse of the encoder, and the reserved words;
then where a command and an ARK stop; then the micro-operations an operation issues (R92), counted from its end. -/

namespace Sys2Proof

/-! ## The fields of a word -/

theorem zField_microWord (op : BitVec 3) (k : BitVec 4) : zField (microWord op k) = 0 := by
  revert op k; decide

theorem opField_microWord (op : BitVec 3) (k : BitVec 4) : opField (microWord op k) = op := by
  revert op k; decide

theorem kField_microWord (op : BitVec 3) (k : BitVec 4) : kField (microWord op k) = k := by
  revert op k; decide

/-- A word of format U with `z` = 0 is made of its two other fields. -/
theorem microWord_of_fields {w : Byte} {op : BitVec 3} {k : BitVec 4} (hz : zField w = 0) (hop : opField w = op)
    (hk : kField w = k) : microWord op k = w := by
  subst hop hk
  revert w; decide

theorem zField_eq_zero_iff (w : Byte) : zField w = 0 ↔ w.getLsbD 4 = false := by
  revert w; decide

theorem opField_toNat (w : Byte) : (opField w).toNat = w.toNat / 32 := by
  have hw := w.isLt
  simp only [opField, BitVec.extractLsb'_toNat, Nat.shiftRight_eq_div_pow]
  omega

theorem kField_toNat (w : Byte) : (kField w).toNat = w.toNat % 16 := by
  simp [kField]

/-! ## The decoder of each format -/

/-- The one word of the opcode map that is reserved for its index (R84, R89). -/
theorem wellFormed_ark_iff (k : BitVec 4) : (Instr.ark k).wellFormed = true ↔ k ≠ 15#4 := by
  revert k; decide

/-- The word of a micro-operation decodes to it, but for ARK 15, whose word is reserved. -/
theorem decodeMicro_encode {i : Instr} (hf : i.format = .micro) (hw : i.wellFormed = true) :
    decodeMicro (encode i) = .ok i := by
  cases i with
  | cnop | start => cases hf
  | ark k =>
    have hk := (wellFormed_ark_iff k).1 hw
    simpa [encode, decodeMicro, zField_microWord, opField_microWord, kField_microWord] using hk
  | nop | lds | isr | isb | imc | sto | fail => rfl

/-- Each branch of the decoder that names an operation has fixed the fields its word is made of. -/
theorem decodeMicro_ok {w : Byte} {i : Instr} (h : decodeMicro w = .ok i) :
    i.format = .micro ∧ encode i = w ∧ i.wellFormed = true := by
  unfold decodeMicro at h
  split_ifs at h with hz hop hk hk h0 h1 h3 h4 h5 h6 <;> cases h <;> rw [not_not] at hz
  case neg => exact ⟨rfl, microWord_of_fields hz hop rfl, (wellFormed_ark_iff _).2 hk⟩
  all_goals rw [not_not] at hk
  · exact ⟨rfl, microWord_of_fields hz h0 hk, rfl⟩
  · exact ⟨rfl, microWord_of_fields hz h1 hk, rfl⟩
  · exact ⟨rfl, microWord_of_fields hz h3 hk, rfl⟩
  · exact ⟨rfl, microWord_of_fields hz h4 hk, rfl⟩
  · exact ⟨rfl, microWord_of_fields hz h5 hk, rfl⟩
  · exact ⟨rfl, microWord_of_fields hz h6 hk, rfl⟩
  · exact ⟨rfl, microWord_of_fields hz (show opField w = 7 by bv_omega) hk, rfl⟩

/-- A command word decodes to CNOP or START exactly when it is that word: every other one is reserved. -/
theorem decode_command_ok_iff {w : Byte} {i : Instr} :
    decode .command w = .ok i ↔ i.format = .command ∧ encode i = w ∧ i.wellFormed = true := by
  constructor
  · intro h
    rcases Machine.decode_command_cases w with ⟨rfl, hd⟩ | ⟨rfl, hd⟩ | ⟨-, -, hd⟩ <;> rw [hd] at h <;> cases h
    · exact ⟨rfl, rfl, rfl⟩
    · exact ⟨rfl, rfl, rfl⟩
  · rintro ⟨hf, rfl, -⟩
    cases i with
    | cnop => exact Machine.decode_cnopWord
    | start => exact Machine.decode_startWord
    | nop | lds | ark k | isr | isb | imc | sto | fail => cases hf

/-- Settles O1: format by format, the decoder inverts the encoder on the words that are not reserved. -/
theorem decodeAndEncodeAgree : Obligations.DecodeAndEncodeAgree := by
  intro f w i
  cases f with
  | command => exact decode_command_ok_iff
  | micro =>
    refine ⟨decodeMicro_ok, ?_⟩
    rintro ⟨hf, rfl, hw⟩
    exact decodeMicro_encode hf hw

/-- The word of an operation decodes to it in the operation's own format. -/
theorem decode_encode {i : Instr} (hw : i.wellFormed = true) : decode i.format (encode i) = .ok i :=
  (decodeAndEncodeAgree _ _ _).2 ⟨rfl, rfl, hw⟩

/-- Settles O2: each row is the word of its operation. -/
theorem opcodeMapRowsDecode : Obligations.OpcodeMapRowsDecode := by
  refine ⟨decode_encode (i := .cnop) rfl, decode_encode (i := .start) rfl, decode_encode (i := .nop) rfl,
    decode_encode (i := .lds) rfl, fun k hk => ?_, decode_encode (i := .isr) rfl, decode_encode (i := .isb) rfl,
    decode_encode (i := .imc) rfl, decode_encode (i := .sto) rfl, decode_encode (i := .fail) rfl⟩
  have hword : ∀ k : BitVec 4, 0x40 + k.zeroExtend 8 = encode (.ark k) := by decide
  rw [hword]
  exact decode_encode (i := .ark k) (decide_eq_true hk)

/-! ## The reserved words -/

theorem decode_command_reserved {w : Byte} (h : 2 ≤ w.toNat) : decode .command w = .error (.reservedCommand w) := by
  rcases Machine.decode_command_cases w with ⟨rfl, -⟩ | ⟨rfl, -⟩ | ⟨-, -, hd⟩
  · exact absurd h (by decide)
  · exact absurd h (by decide)
  · exact hd

theorem decode_micro_reservedZ {w : Byte} (h : zField w ≠ 0) : decode .micro w = .error (.reservedZ w) := if_pos h

theorem decode_micro_strayK {w : Byte} (hz : zField w = 0) (hop : opField w ≠ 2) (hk : kField w ≠ 0) :
    decode .micro w = .error (.strayK w) := by
  rw [decode, decodeMicro, if_neg (not_not.2 hz), if_neg hop, if_pos hk]

/-- Settles O3: the checks of the decoder in their order, the fields read off the word. -/
theorem reservedWordsAreRejected : Obligations.ReservedWordsAreRejected := by
  refine ⟨fun w => decode_command_reserved, fun w h => decode_micro_reservedZ fun hz => ?_,
    fun w hz hop hk => decode_micro_strayK ((zField_eq_zero_iff w).2 hz) ?_ ?_, rfl⟩
  · cases h.symm.trans ((zField_eq_zero_iff w).1 hz)
  · exact fun h => hop (by rw [← opField_toNat, h]; rfl)
  · exact fun h => hk (by rw [← kField_toNat, h]; rfl)

end Sys2Proof

namespace Sys2Proof.Machine

variable {s t : State}

/-- Settles O7: the word is decoded before anything of the step but the host's writes. -/
theorem reservedCommandIsRefused : Obligations.ReservedCommandIsRefused := by
  intro s w hl hr hc hw
  simp [step, hl, hr, hc, commandStep, decode_command_reserved hw, andThen]

/-! ## Where ARK stops -/

theorem exec_ark_of_gt {k : BitVec 4} (hk : s.nrl < k) : exec (.ark k) s = .refused (.roundKeyBeyondSchedule k) :=
  if_pos hk

/-- With an index in the schedule in use ARK stops as the read of its round key does. -/
theorem exec_ark_of_readRoundKey_error {k : BitVec 4} {e : Fault} (hk : k ≤ s.nrl) (h : s.readRoundKey k = .error e) :
    exec (.ark k) s = .fault e := by
  simp only [exec, execArk, if_neg (BitVec.not_lt.2 hk), h, onValue]

/-- With no write to the schedule during the operation the read of a round key stops as that of its 16 bytes does. -/
theorem readRoundKey_error_of_clean {k : BitVec 4} {e : Fault} (hclean : s.rkDirty = false)
    (h : s.readBlock .rk (roundKeyIndex k.toNat) = .error e) : s.readRoundKey k = .error e := by
  simp [State.readRoundKey, hclean, h]

/-- A block with a byte that nothing has written since power-on has no value to read (R250). -/
theorem readBlock_of_unwritten {sp : Space} {i j : Nat} (hi : i + 16 ≤ sp.size) (hj : j < 16)
    (h : memRead s.mem (s.locate sp (i + j)) = none) : s.readBlock sp i = .error (.neverWritten sp) := by
  cases hr : s.readBlock sp i with
  | error e => rw [readBlock_error hi hr]
  | ok b =>
    have hb := (readBlock_ok_iff.1 hr).2 j hj
    rw [State.locate, Nat.add_assoc] at hb
    cases h.symm.trans hb

/-- A block of which every byte has been written has a value to read. -/
theorem readBlock_of_written {sp : Space} {i : Nat} (hi : i + 16 ≤ sp.size)
    (h : ∀ j, j < 16 → (memRead s.mem (s.locate sp (i + j))).isSome = true) : ∃ b, s.readBlock sp i = .ok b := by
  choose b hb using fun j : Fin 16 => Option.isSome_iff_exists.1 (h j j.isLt)
  refine ⟨Vector.ofFn b, readBlock_ok_iff.2 ⟨hi, fun j hj => ?_⟩⟩
  rw [Vector.getElem_ofFn, ← hb ⟨j, hj⟩, State.locate, State.locate, Nat.add_assoc]

theorem readBlock_of_outside {sp : Space} {i : Nat} (hi : ¬ i + 16 ≤ sp.size) :
    s.readBlock sp i = .error (.outsideSpace sp) := if_neg hi

/-- ARK has a round key, whatever it is, on a written schedule and on an unstable one. -/
theorem readRoundKey_of_written {k : BitVec 4}
    (h : s.rkDirty = true ∨
      k.toNat ≤ 14 ∧ ∀ j, j < 16 → (memRead s.mem (s.locate .rk (16 * k.toNat + j))).isSome = true) :
    ∃ r, s.readRoundKey k = .ok r := by
  cases hd : s.rkDirty with
  | true => exact ⟨_, readRoundKey_ok_iff.2 (.inl ⟨hd, rfl⟩)⟩
  | false =>
    obtain ⟨hk, hw⟩ := h.resolve_left (by simp [hd])
    obtain ⟨b, hb⟩ := readBlock_of_written (roundKeyIndex_fits hk) hw
    exact ⟨(b, s), readRoundKey_ok_iff.2 (.inr ⟨hd, hb, rfl⟩)⟩

/-- Settles O26: the index is checked first, then the round key is read, then `S`. -/
theorem arkStops : Obligations.ArkStops := by
  intro s k
  refine ⟨exec_ark_of_gt, fun j hk hk14 hclean hj hnone => ?_, fun hk h15 hclean => ?_, fun hk hS hkey => ?_⟩
  · exact exec_ark_of_readRoundKey_error hk
      (readRoundKey_error_of_clean hclean (readBlock_of_unwritten (roundKeyIndex_fits hk14) hj hnone))
  · exact exec_ark_of_readRoundKey_error hk
      (readRoundKey_error_of_clean hclean (readBlock_of_outside (by rw [h15]; decide)))
  · obtain ⟨r, hr⟩ := readRoundKey_of_written hkey
    obtain ⟨-, -, -, -, hark⟩ := anInvalidMatrixIsNeverUsed s hS
    exact hark k r hk hr

/-! ## The micro-operations of an operation -/

/-- The micro-operation an operation of `nr` rounds issues when `n` of its steps are left, that step included: the count of
steps left (R163, R170) tells the phase and the round. -/
def opWithLeft (nr n : Nat) : Instr :=
  match n % 4 with
  | 0 => .isr
  | 3 => .isb
  | 2 => .ark (BitVec.ofNat 4 (n / 4))
  | _ => if n = 1 then .sto else if n = 4 * nr + 1 then .ark (BitVec.ofNat 4 nr) else .imc

theorem opWithLeft_isr (nr r : Nat) : opWithLeft nr (4 * r + 4) = .isr := by
  simp [opWithLeft]

theorem opWithLeft_isb (nr r : Nat) : opWithLeft nr (4 * r + 3) = .isb := by
  simp [opWithLeft]

theorem opWithLeft_ark (nr r : Nat) : opWithLeft nr (4 * r + 2) = .ark (BitVec.ofNat 4 r) := by
  simp [opWithLeft, Nat.mul_add_div]

theorem opWithLeft_imc {nr r : Nat} (h0 : r ≠ 0) (hr : r ≠ nr) : opWithLeft nr (4 * r + 1) = .imc := by
  simp [opWithLeft, h0, hr]

theorem opWithLeft_firstArk {nr : Nat} (hnr : nr ≠ 0) : opWithLeft nr (4 * nr + 1) = .ark (BitVec.ofNat 4 nr) := by
  simp [opWithLeft, hnr]

theorem opWithLeft_sto (nr : Nat) : opWithLeft nr 1 = .sto := rfl

/-- The last `n` micro-operations of an operation of `nr` rounds. -/
def opsLeft (nr : Nat) : Nat → List Instr
  | 0 => []
  | n + 1 => opWithLeft nr (n + 1) :: opsLeft nr n

theorem opsLeft_length (nr n : Nat) : (opsLeft nr n).length = n := by
  induction n with
  | zero => rfl
  | succ n ih => rw [opsLeft, List.length_cons, ih]

/-- The rounds `r` down to 1 and the final round are the last `4 r + 4` steps (R92). -/
theorem opsLeft_eq_irounds {nr r : Nat} (hr : r < nr) : opsLeft nr (4 * r + 4) = irounds r ++ ifinal ++ [.sto] := by
  induction r with
  | zero => rfl
  | succ r ih =>
    have himc : opWithLeft nr (4 * (r + 1) + 1) = .imc := opWithLeft_imc (by omega) (by omega)
    have hround : opsLeft nr (4 * (r + 1) + 4) = iround (r + 1) ++ opsLeft nr (4 * (r + 1)) := by
      simp only [opsLeft, opWithLeft_isr, opWithLeft_isb, opWithLeft_ark, himc, iround, List.cons_append, List.nil_append]
    rw [hround, Nat.mul_succ, ih (by omega), irounds]
    simp only [List.append_assoc]

/-- `DECRYPT nr` is LDS and then, step by step, what the rest of the operation issues. -/
theorem decryptOps_eq {nr : Nat} (hnr : 0 < nr) : decryptOps nr = .lds :: opsLeft nr (4 * nr + 1) := by
  obtain ⟨r, rfl⟩ : ∃ r, nr = r + 1 := ⟨nr - 1, by omega⟩
  rw [decryptOps, opsLeft, opWithLeft_firstArk (by omega), Nat.mul_succ, opsLeft_eq_irounds (Nat.lt_succ_self r),
    Nat.add_sub_cancel]

section Trace

variable {kl : KeyLen} {rk : Nat → Block} {plain inp : Block} {n : Nat}

/-- While an operation runs the sequencer issues the micro-operation of the count of steps left (R163). -/
theorem State.Operating.issues (h : s.Operating kl rk plain n) :
    decode .micro s.sequencerWord = .ok (opWithLeft (keyLenRounds kl) n) := by
  have hpos := keyLenRounds_pos kl
  have hrounds := h.rounds
  have hround := h.round
  rw [← h.left]
  unfold roundFits at hround
  cases hp : s.ph with
  | idle => exact absurd hp h.running
  | ark =>
    rw [decode_arkWord hp ((h.rnd_le hp).trans (keyLenRounds_le kl))]
    simp only [State.stepsLeft, hp]
    split_ifs with hfirst
    · rw [hfirst, hrounds, opWithLeft_firstArk hpos.ne', ← hrounds, BitVec.ofNat_toNat, BitVec.setWidth_eq]
    · rw [opWithLeft_ark, BitVec.ofNat_toNat, BitVec.setWidth_eq]
  | isr => rw [decode_isrWord hp, State.stepsLeft, hp, opWithLeft_isr]
  | isb => rw [decode_isbWord hp, State.stepsLeft, hp, opWithLeft_isb]
  | imc =>
    simp only [hp] at hround
    simp only [decode_imcWord hp, State.stepsLeft, hp]
    rw [opWithLeft_imc (by bv_omega) (by bv_omega)]
  | store => rw [decode_storeWord hp, State.stepsLeft, hp, opWithLeft_sto]

theorem microOp_of_running (hr : s.turn.reset = false) (hp : s.ph ≠ .idle) {i : Instr}
    (hi : decode .micro s.sequencerWord = .ok i) : s.microOp = some i := by
  simp [State.microOp, hr, hp, hi]

theorem microTrace_succ (h : step s = .next t) (n : Nat) : microTrace (n + 1) s = s.microOp :: microTrace n t := by
  simp [microTrace, h]

/-- The trace of an operation under way, beside a host that keeps its duties. -/
theorem State.Operating.microTrace (h : s.Operating kl rk plain n)
    (hh : ∀ v ∈ s.host, v.harmless (keyLenRounds kl)) :
    microTrace n s = (opsLeft (keyLenRounds kl) n).map some := by
  induction n generalizing s with
  | zero => rfl
  | succ n ih =>
    have hturn := turn_harmless hh
    have ⟨hreset, _, _⟩ := hturn
    have hop : s.microOp = some (opWithLeft (keyLenRounds kl) (n + 1)) :=
      microOp_of_running hreset h.running h.issues
    cases n with
    | zero => rw [microTrace_succ (h.step_last hturn), hop]; rfl
    | succ n =>
      obtain ⟨t, hstep, ht, -, -, hhost⟩ := h.step (Nat.le_add_left 1 n) hturn
      rw [microTrace_succ hstep, hop, ih ht fun v hv => hh v (List.mem_of_mem_tail (hhost ▸ hv))]
      rfl

/-- The trace of a whole operation, from the step of START on, is `DECRYPT nr` (R92). -/
theorem State.BeginsOperation.microTrace (h : s.BeginsOperation kl rk inp)
    (hh : ∀ v ∈ s.host.tail, v.harmless (keyLenRounds kl)) :
    microTrace (4 * keyLenRounds kl + 2) s = (decryptOps (keyLenRounds kl)).map some := by
  have hlds : s.microOp = some .lds := by simp [State.microOp, h.noReset, h.idle, h.command, h.soft]
  obtain ⟨t, hstep, hop, -, -, hhost⟩ := h.step
  rw [microTrace_succ hstep, hlds, hop.microTrace (hhost ▸ hh), decryptOps_eq (keyLenRounds_pos kl), List.map_cons]

end Trace

/-- Settles O40: the trace of the operation, and its end. -/
theorem anOperationRunsDecrypt : Obligations.AnOperationRunsDecrypt := by
  intro s first turns kl rk inp hl hhost hr hc _ hh hp hb ha hready
  have hturn := turn_of_host hhost
  have hbegin : s.BeginsOperation kl rk inp := ⟨hl, hturn ▸ hr, hturn ▸ hc, hp, hb, ha, hready⟩
  have hduties : ∀ v ∈ s.host.tail, v.harmless (keyLenRounds kl) := by rwa [hhost, List.tail_cons]
  refine ⟨hbegin.microTrace hduties, ?_, ?_⟩
  · rw [decryptOps_eq (keyLenRounds_pos kl), List.length_cons, opsLeft_length]
  · obtain ⟨t, hrun, -, -, -, hidle, -⟩ := hbegin.run_to_end hduties
    exact ⟨t, hrun, hidle⟩

end Sys2Proof.Machine

/-! # Proofs: loading and storing the state matrix (40_load_store.md) -/

namespace Sys2Proof.Machine

variable {s : State}

/-- The bytes of a space lie in one rising run from its byte 0 on (log 29). -/
theorem locate_zero_add (sp : Space) (i : Nat) : s.locate sp 0 + i = s.locate sp i := by
  simp only [State.locate, Nat.add_zero]

/-- Settles O21: the 16 bytes are a block to read from `IN`, and that block is all LDS takes. -/
theorem ldsCopiesTheInput : Obligations.LdsCopiesTheInput := by
  intro s inp hinp
  have hread : s.readBlock .inp 0 = .ok inp :=
    readBlock_ok_iff.2 ⟨Nat.le_refl 16, fun i hi => (locate_zero_add .inp i).symm ▸ hinp i hi⟩
  exact exec_lds_next_iff.2 ⟨inp, hread, rfl⟩

/-- Settles O23: STO writes one block from `OUT[0]` on, which puts byte `i` at `OUT[i]` and nothing outside `OUT`. -/
theorem stoWritesTheOutputWhole : Obligations.StoWritesTheOutputWhole := by
  intro s b hb
  refine ⟨_, exec_sto_next_iff.2 ⟨b, hb, rfl⟩, fun i hi => ?written, fun a ha => ?kept, ?registers⟩
  case written => exact locate_zero_add (s := s) .out i ▸ memRead_memWriteBlock_inside s.mem _ b i hi
  case kept => exact memRead_memWriteBlock_outside s.mem _ b a ha
  case registers => exact ⟨rfl, rfl, rfl, rfl, rfl, rfl, rfl, rfl, rfl, rfl, rfl⟩

end Sys2Proof.Machine

/-! # Proofs: adding the round key (41_addroundkey.md)

ARK k reads the block at `RK[16 k]`; what it does then `exec_ark_next_iff` says. Of its algebra only the clause about IMC has
content: IMC is linear because each of its tables is a product of GF(2^8), and the product distributes over exclusive-or. -/

namespace Sys2Proof.Machine

variable {s : State}

/-! ## The round key -/

/-- The bytes from index `i` of a space on lie in one rising run (log 29). -/
theorem locate_add (sp : Space) (i j : Nat) : s.locate sp i + j = s.locate sp (i + j) := Nat.add_assoc ..

/-- A round key whose 16 bytes are known, in a schedule not written during the operation, is the one read. -/
theorem readRoundKey_of_bytes {k : BitVec 4} {key : Block} (hk : k.toNat ≤ 14) (hclean : s.rkDirty = false)
    (hkey : ∀ j (hj : j < 16), memRead s.mem (s.locate .rk (16 * k.toNat + j)) = some key[j]) :
    s.readRoundKey k = .ok (key, s) := by
  have hread : s.readBlock .rk (roundKeyIndex k.toNat) = .ok key :=
    readBlock_ok_iff.2 ⟨roundKeyIndex_fits hk, fun j hj => (locate_add .rk _ j).symm ▸ hkey j hj⟩
  exact readRoundKey_ok_iff.2 (.inr ⟨hclean, hread, rfl⟩)

/-- Settles O24: the 16 bytes are the round key read, and that read draws no free value. -/
theorem arkAddsTheRoundKey : Obligations.ArkAddsTheRoundKey := by
  intro s k b key hk hk14 hclean hb hkey
  exact exec_ark_next_iff.2 ⟨hk, b, (key, s), hb, readRoundKey_of_bytes hk14 hclean hkey, rfl⟩

/-! ## The product of GF(2^8) and exclusive-or -/

theorem xtime_xor (a b : Byte) : xtime (a ^^^ b) = xtime a ^^^ xtime b := by
  -- The reduction by 0x1B depends on bit 7, and that bit of `a ^^^ b` is the exclusive-or of the two.
  have reduction : ∀ p q : Bool, (if p ^^ q then 0x1B else 0x00 : Byte) =
      (if p then 0x1B else 0x00) ^^^ (if q then 0x1B else 0x00) := by decide
  rw [xtime, BitVec.shiftLeft_xor_distrib, BitVec.getLsbD_xor, reduction, xtime, xtime]
  ac_rfl

theorem xtimes_xor (n : Nat) (a b : Byte) : xtimes n (a ^^^ b) = xtimes n a ^^^ xtimes n b := by
  induction n generalizing a b with
  | zero => rfl
  | succ n ih => simp only [xtimes, xtime_xor, ih]

/-- The product distributes over exclusive-or (R140): each of the summands it adds up does. -/
theorem gfMul_xor (a b c : Byte) : gfMul (a ^^^ b) c = gfMul a c ^^^ gfMul b c := by
  unfold gfMul
  -- The sum for `a ^^^ b` begins at the two sums' beginnings, added up.
  change List.foldl _ ((0 : Byte) ^^^ 0) _ = _
  refine List.foldl_hom₂ _ (· ^^^ ·) _ _ _ _ _ fun x y i => ?_
  split_ifs
  · rw [xtimes_xor]; ac_rfl
  · rfl

theorem gmul9_eq_gfMul : ∀ a : Byte, gmul9 a = gfMul a 0x09 := by decide +kernel
theorem gmulB_eq_gfMul : ∀ a : Byte, gmulB a = gfMul a 0x0B := by decide +kernel
theorem gmulD_eq_gfMul : ∀ a : Byte, gmulD a = gfMul a 0x0D := by decide +kernel
theorem gmulE_eq_gfMul : ∀ a : Byte, gmulE a = gfMul a 0x0E := by decide +kernel

/-! ## The transformations and exclusive-or -/

@[simp] theorem getElem_xorBlock (a b : Block) (i : Nat) (hi : i < 16) : (xorBlock a b)[i] = a[i] ^^^ b[i] := by
  simp [xorBlock]

theorem xorBlock_self_right (x k : Block) : xorBlock (xorBlock x k) k = x := by
  ext1 i hi
  simp

theorem xorBlock_right_comm (a b k : Block) : xorBlock (xorBlock a b) k = xorBlock (xorBlock a k) b := by
  ext1 i hi
  simp only [getElem_xorBlock]
  ac_rfl

theorem invShiftRows_xorBlock (x k : Block) :
    invShiftRows (xorBlock x k) = xorBlock (invShiftRows x) (invShiftRows k) := by
  ext1 i hi
  simp [invShiftRows]

/-- Each row of the product of R143 with a column is linear in the column. -/
theorem invMixByte_xor (a0 a1 a2 a3 b0 b1 b2 b3 : Byte) (r : Nat) :
    invMixByte (a0 ^^^ b0) (a1 ^^^ b1) (a2 ^^^ b2) (a3 ^^^ b3) r =
      invMixByte a0 a1 a2 a3 r ^^^ invMixByte b0 b1 b2 b3 r := by
  unfold invMixByte
  simp only [gmul9_eq_gfMul, gmulB_eq_gfMul, gmulD_eq_gfMul, gmulE_eq_gfMul, gfMul_xor]
  split <;> ac_rfl

theorem invMixColumns_xorBlock (x k : Block) :
    invMixColumns (xorBlock x k) = xorBlock (invMixColumns x) (invMixColumns k) := by
  ext1 i hi
  simp [invMixColumns, invMixByte_xor]

/-- Settles O36: byte by byte for the key itself and for ISR, column by column for IMC. -/
theorem addRoundKeyProperties : Obligations.AddRoundKeyProperties :=
  ⟨xorBlock_self_right, xorBlock_right_comm, invShiftRows_xorBlock, invMixColumns_xorBlock⟩

end Sys2Proof.Machine


/-! # Proofs: InvShiftRows (42_invshiftrows.md)

Everything follows from the index table of R121, `src(i) = (13 i) mod 16`: 5 is the inverse of 13 modulo 16, and 13 to the
fourth power is 1. -/

namespace Sys2Proof.Machine

/-! ## The index table -/

/-- The model's index, by row and column (R120), is the table's. -/
@[simp] theorem getElem_invShiftRows (b : Block) (i : Nat) (hi : i < 16) :
    (invShiftRows b)[i] = b[(13 * i) % 16]'(Nat.mod_lt _ (by omega)) := by
  have hsrc : i % 4 + 4 * ((i / 4 + 4 - i % 4) % 4) = (13 * i) % 16 := by omega
  simp only [invShiftRows, Vector.getElem_ofFn, hsrc]

/-- The table of R121 as a permutation of the byte positions: new byte `i` is old byte `isrSource i`. -/
def isrSource : Equiv.Perm (Fin 16) where
  toFun i := 13 * i
  invFun i := 5 * i
  left_inv := by decide
  right_inv := by decide

theorem getElem_invShiftRows_isrSource (b : Block) (i : Fin 16) : (invShiftRows b)[i.val] = b[(isrSource i).val] :=
  getElem_invShiftRows b i i.isLt

/-- Where a byte goes (R121, seen from the old state). -/
theorem getElem_invShiftRows_target (b : Block) (i : Nat) (hi : i < 16) :
    (invShiftRows b)[(5 * i) % 16]'(Nat.mod_lt _ (by omega)) = b[i] := by
  have hback : 13 * (5 * i % 16) % 16 = i := by omega
  simp only [getElem_invShiftRows, hback]

/-- Settles O27: the new matrix is `invShiftRows b`, read by its index table. -/
theorem isrMovesBytesByTheIndexTable : Obligations.IsrMovesBytesByTheIndexTable := by
  refine ⟨fun s b hb => ⟨invShiftRows b, ?completes, ?source, ?target⟩, ?index, ?printed⟩
  case completes => exact exec_isr_next_iff.2 ⟨b, hb, rfl⟩
  case source => exact getElem_invShiftRows b
  case target => exact getElem_invShiftRows_target b
  case index => intro i hi; omega
  case printed => decide

/-! ## Its properties -/

/-- Four applications go round: 13 to the fourth power is 1 modulo 16. -/
theorem invShiftRows_four_times (b : Block) : invShiftRows (invShiftRows (invShiftRows (invShiftRows b))) = b := by
  ext1 i hi
  have hround : 13 * (13 * (13 * (13 * i % 16) % 16) % 16) % 16 = i := by omega
  simp only [getElem_invShiftRows, hround]

@[simp] theorem shiftRows_invShiftRows (b : Block) : shiftRows (invShiftRows b) = b := invShiftRows_four_times b

@[simp] theorem invShiftRows_shiftRows (b : Block) : invShiftRows (shiftRows b) = b := invShiftRows_four_times b

@[simp] theorem getElem_invSubBytes (b : Block) (i : Nat) (hi : i < 16) : (invSubBytes b)[i] = invSbox b[i] := by
  simp only [invSubBytes, Vector.getElem_ofFn]

/-- One moves the bytes, the other substitutes each wherever it stands (R122 c). -/
theorem invSubBytes_invShiftRows (b : Block) : invSubBytes (invShiftRows b) = invShiftRows (invSubBytes b) := by
  ext1 i hi
  simp only [getElem_invSubBytes, getElem_invShiftRows]

/-- Settles O37: the permutation is the index table; three applications, `shiftRows`, are one short of four. -/
theorem invShiftRowsProperties : Obligations.InvShiftRowsProperties :=
  ⟨⟨isrSource, getElem_invShiftRows_isrSource⟩, invShiftRows_four_times,
    fun b => ⟨shiftRows_invShiftRows b, invShiftRows_shiftRows b⟩, invSubBytes_invShiftRows⟩

end Sys2Proof.Machine

/-! # Proofs: InvSubBytes (43_invsubbytes.md) -/

namespace Sys2Proof.Machine

/-- Settles O28: ISB completes with `invSubBytes b`, which R130 writes out byte by byte. -/
theorem isbSubstitutesEveryByte : Obligations.IsbSubstitutesEveryByte := by
  intro s b hb
  have hbytes : invSubBytes b = Vector.ofFn fun i => invSbox b[i.val] := rfl
  exact exec_isb_next_iff.2 ⟨b, hb, by rw [hbytes]⟩

end Sys2Proof.Machine

/-! # Proofs: InvMixColumns (44_invmixcolumns.md)

Both column transformations are products with a matrix over GF(2^8): `matrixByte invMixCoeff` is InvMixColumns read off its
tables, `matrixByte mixCoeff` is the forward MixColumns. They undo each other because the two matrices do. -/

namespace Sys2Proof.Machine

/-- Settles O34: the four tables, each checked at its 256 entries. -/
theorem theGmulTablesAreProducts : Obligations.TheGmulTablesAreProducts :=
  fun a => ⟨gmul9_eq_gfMul a, gmulB_eq_gfMul a, gmulD_eq_gfMul a, gmulE_eq_gfMul a⟩

/-! ## The bytes of a product, by column and row -/

/-- A block is its four columns (R13, R20). -/
theorem block_ext_columns {a b : Block}
    (h : ∀ (c : Fin 4) (r : Nat) (hr : r < 4), a[4 * c.val + r] = b[4 * c.val + r]) : a = b := by
  ext1 i hi
  have hcell : 4 * (i / 4) + i % 4 = i := Nat.div_add_mod i 4
  simpa only [hcell] using h ⟨i / 4, by omega⟩ (i % 4) (Nat.mod_lt _ (by omega))

/-- The tables as the model combines them in row `r` are that row of the matrix of R143. -/
theorem invMixByte_eq_gfMul (a0 a1 a2 a3 : Byte) {r : Nat} (hr : r < 4) :
    invMixByte a0 a1 a2 a3 r =
      gfMul a0 (invMixCoeff r 0) ^^^ gfMul a1 (invMixCoeff r 1) ^^^ gfMul a2 (invMixCoeff r 2)
        ^^^ gfMul a3 (invMixCoeff r 3) := by
  simp only [invMixByte, gmul9_eq_gfMul, gmulB_eq_gfMul, gmulD_eq_gfMul, gmulE_eq_gfMul]
  interval_cases r <;> rfl

theorem getElem_invMixColumns (b : Block) (c : Fin 4) {r : Nat} (hr : r < 4) :
    (invMixColumns b)[4 * c.val + r] = matrixByte invMixCoeff b c r := by
  have hcol : (4 * c.val + r) / 4 = c.val := by omega
  have hrow : (4 * c.val + r) % 4 = r := by omega
  simp only [invMixColumns, Vector.getElem_ofFn, hcol, hrow]
  exact invMixByte_eq_gfMul _ _ _ _ hr

theorem getElem_mixColumns (b : Block) (c : Fin 4) {r : Nat} (hr : r < 4) :
    (mixColumns b)[4 * c.val + r] = matrixByte mixCoeff b c r := by
  have hcol : (4 * c.val + r) / 4 = c.val := by omega
  have hrow : (4 * c.val + r) % 4 = r := by omega
  simp only [mixColumns, Vector.getElem_ofFn, hcol, hrow]

/-- A product reads only the column it multiplies (R145 d). -/
theorem matrixByte_congr (m : Nat → Nat → Byte) {a b : Block} {c : Fin 4}
    (h : ∀ r (hr : r < 4), a[4 * c.val + r] = b[4 * c.val + r]) (r : Nat) : matrixByte m a c r = matrixByte m b c r := by
  have h0 : a[4 * c.val] = b[4 * c.val] := h 0 (by omega)
  simp only [matrixByte, h0, h 1 (by omega), h 2 (by omega), h 3 (by omega)]

/-- Settles O29: IMC completes with `invMixColumns b`, each byte of which is its row of the product. -/
theorem imcMultipliesByTheMatrix : Obligations.ImcMultipliesByTheMatrix :=
  fun _ b hb => ⟨invMixColumns b, exec_imc_next_iff.2 ⟨b, hb, rfl⟩, fun c _ hr => getElem_invMixColumns b c hr⟩

/-! ## The two matrices are inverse to each other

Products are additive in the byte multiplied, so an identity between sums of them is checked on the eight powers of 0x02,
`xtimes i 0x01`, and then holds for every byte. -/

/-- A byte is the sum of the powers of 0x02 at its set bits. -/
theorem gfMul_0x01_left : ∀ a : Byte, gfMul 0x01 a = a := by decide +kernel

/-- Two additive functions that agree on the powers of 0x02 agree. -/
theorem additive_ext {f g : Byte → Byte} (hf : ∀ a b, f (a ^^^ b) = f a ^^^ f b)
    (hg : ∀ a b, g (a ^^^ b) = g a ^^^ g b) (h : ∀ i < 8, f (xtimes i 0x01) = g (xtimes i 0x01)) (a : Byte) : f a = g a := by
  have hf0 : f 0 = 0 := by simpa using hf 0 0
  have hg0 : g 0 = 0 := by simpa using hg 0 0
  rw [← gfMul_0x01_left a, gfMul]
  refine List.foldlRecOn (motive := fun x => f x = g x) _ _ (hf0.trans hg0.symm) fun x hx i hi => ?_
  split
  · rw [hf, hg, hx, h i (List.mem_range.1 hi)]
  · exact hx

/-- Entry `(r, j)` of the product of the matrices `m` and `n`, applied to a byte. -/
def productEntry (m n : Nat → Nat → Byte) (r j : Nat) (a : Byte) : Byte :=
  gfMul (gfMul a (n 0 j)) (m r 0) ^^^ gfMul (gfMul a (n 1 j)) (m r 1) ^^^ gfMul (gfMul a (n 2 j)) (m r 2)
    ^^^ gfMul (gfMul a (n 3 j)) (m r 3)

theorem productEntry_xor (m n : Nat → Nat → Byte) (r j : Nat) (a b : Byte) :
    productEntry m n r j (a ^^^ b) = productEntry m n r j a ^^^ productEntry m n r j b := by
  simp only [productEntry, gfMul_xor]
  ac_rfl

/-- The product of the matrices `m` and `n` is the identity, on the powers of 0x02. -/
def MatrixUndoes (m n : Nat → Nat → Byte) : Prop :=
  ∀ r < 4, ∀ j < 4, ∀ i < 8, productEntry m n r j (xtimes i 0x01) = if r = j then xtimes i 0x01 else 0

theorem mixCoeff_undoes_invMixCoeff : MatrixUndoes mixCoeff invMixCoeff := by unfold MatrixUndoes; decide +kernel

theorem invMixCoeff_undoes_mixCoeff : MatrixUndoes invMixCoeff mixCoeff := by unfold MatrixUndoes; decide +kernel

/-- The product of the two matrices is the identity on every byte. -/
theorem MatrixUndoes.productEntry_eq {m n : Nat → Nat → Byte} (hmn : MatrixUndoes m n) {r j : Nat} (hr : r < 4)
    (hj : j < 4) (a : Byte) : productEntry m n r j a = if r = j then a else 0 :=
  additive_ext (productEntry_xor m n r j) (g := fun a => if r = j then a else 0) (fun _ _ => by split_ifs <;> simp)
    (hmn r hr j hj) a

/-- Multiplying a column by `n` and the result by `m` gives the column back, when `m` undoes `n`. -/
theorem MatrixUndoes.matrixByte_eq {m n : Nat → Nat → Byte} (hmn : MatrixUndoes m n) {b d : Block} {c : Fin 4}
    (hd : ∀ r (hr : r < 4), d[4 * c.val + r] = matrixByte n b c r) {r : Nat} (hr : r < 4) :
    matrixByte m d c r = b[4 * c.val + r] := by
  have hd0 : d[4 * c.val] = matrixByte n b c 0 := hd 0 (by omega)
  -- Collected by the bytes of the old column, the terms of byte `j` are entry `(r, j)` of the product.
  calc matrixByte m d c r
      = productEntry m n r 0 b[4 * c.val] ^^^ productEntry m n r 1 b[4 * c.val + 1]
          ^^^ productEntry m n r 2 b[4 * c.val + 2] ^^^ productEntry m n r 3 b[4 * c.val + 3] := by
        simp only [matrixByte, productEntry, hd0, hd 1 (by omega), hd 2 (by omega), hd 3 (by omega), gfMul_xor]
        ac_rfl
    _ = (if r = 0 then b[4 * c.val] else 0) ^^^ (if r = 1 then b[4 * c.val + 1] else 0)
          ^^^ (if r = 2 then b[4 * c.val + 2] else 0) ^^^ (if r = 3 then b[4 * c.val + 3] else 0) := by
        simp only [hmn.productEntry_eq hr, Nat.reduceLT]
    _ = b[4 * c.val + r] := by interval_cases r <;> simp

@[simp] theorem mixColumns_invMixColumns (b : Block) : mixColumns (invMixColumns b) = b :=
  block_ext_columns fun c _ hr => (getElem_mixColumns _ c hr).trans
    (mixCoeff_undoes_invMixCoeff.matrixByte_eq (fun _ => getElem_invMixColumns b c) hr)

@[simp] theorem invMixColumns_mixColumns (b : Block) : invMixColumns (mixColumns b) = b :=
  block_ext_columns fun c _ hr => (getElem_invMixColumns _ c hr).trans
    (invMixCoeff_undoes_mixCoeff.matrixByte_eq (fun _ => getElem_mixColumns b c) hr)

theorem invMixColumns_bijective : Function.Bijective invMixColumns :=
  Function.bijective_iff_has_inverse.2 ⟨mixColumns, mixColumns_invMixColumns, invMixColumns_mixColumns⟩

/-! ## Its properties -/

/-- Row `r` of ISR's result is read from row `r`: byte `(r, c)` comes from column `3 r + c` (R121, R145 d). -/
theorem getElem_invShiftRows_row (b : Block) (r : Fin 4) {c : Nat} (hc : c < 4) :
    (invShiftRows b)[r.val + 4 * c] = b[r.val + 4 * ((3 * r.val + c) % 4)] := by
  have hsrc : 13 * (r.val + 4 * c) % 16 = r.val + 4 * ((3 * r.val + c) % 4) := by omega
  simp only [getElem_invShiftRows, hsrc]

/-- Settles O38: linear as O36 says, a bijection by its inverse matrix, and local by the bytes it reads. For (c) one block
serves for ISR and ISB. -/
theorem invMixColumnsProperties : Obligations.InvMixColumnsProperties := by
  refine ⟨invMixColumns_xorBlock, ?zero, invMixColumns_bijective,
    fun b => ⟨mixColumns_invMixColumns b, invMixColumns_mixColumns b⟩,
    ⟨blockOf 1, ?isr⟩, ⟨blockOf 1, ?isb⟩, ?columns, ?rows⟩
  case zero => decide
  case isr => decide
  case isb => decide
  case columns =>
    intro a b c h r hr
    rw [getElem_invMixColumns a c hr, getElem_invMixColumns b c hr, matrixByte_congr invMixCoeff h r]
  case rows =>
    intro a b r h c hc
    rw [getElem_invShiftRows_row a r hc, getElem_invShiftRows_row b r hc, h _ (Nat.mod_lt _ (by omega))]

end Sys2Proof.Machine

/-! # Proofs: the sequencer and the whole operation (45_sequencer.md)

First what a step comes to, by its command; then START of a SOFT and of an ALT_REAL build. Then the statements about a whole
operation: the sequencer's registers move by a table of their own (`Control.next`), so neither data nor the host's other
writes have a part in the sequence or in its length. Last the inverse cipher and the forward cipher, which undo each other
round by round. -/

namespace Sys2Proof.Machine

variable {s t u : State}

/-! ## What a step comes to, by its command -/

theorem step_of_no_reset (hl : placeLegal s.build.place = true) (hr : s.turn.reset = false) :
    step s = andThen (commandStep s.turn.cmd s.afterHostWrites) fun t => .next t.altTick := by
  simp [step, hl, hr]

/-- A START in phase IDLE is the whole of its part of the step (R161). -/
theorem commandStep_of_start (hp : s.ph = .idle) : commandStep (some (encode .start)) s = exec .start s := by
  simp [commandStep, decode_startWord, hp]

/-- With no command, or one without effect, that part is the sequencer's (R162, R169). -/
theorem commandStep_of_no_effect {cmd : Option Byte}
    (h : cmd = none ∨ cmd = some (encode .cnop) ∨ cmd = some (encode .start) ∧ s.ph ≠ .idle) :
    commandStep cmd s = sequencerStep s := by
  rcases commandStep_cases cmd s with ⟨-, e⟩ | ⟨hc, hp, -⟩ | ⟨w, hw, h0, h1, -⟩
  · exact e
  · simp [hc, hp, encode, commandWord] at h
  · simp [hw, h0, h1] at h

/-- Where nothing is in flight afterwards the alternate backend has no step. -/
theorem andThen_altTick_of_none {o : StepOutcome} (h : ∀ t, o = .next t → t.alt = none) :
    (andThen o fun t => .next t.altTick) = o := by
  cases o with
  | next t => simp [andThen, h t rfl]
  | fault e => rfl
  | refused e => rfl

/-- The word issued does not depend on what the host has written. -/
theorem afterHostWrites_sequencerWord : s.afterHostWrites.sequencerWord = s.sequencerWord := by
  obtain ⟨-, hp, hr, -⟩ := afterHostWrites_frame (s := s)
  rw [State.sequencerWord, State.sequencerWord, hp, hr]

theorem sequencerStep_of_decode {i : Instr} (h : decode .micro s.sequencerWord = .ok i) : sequencerStep s = exec i s := by
  rw [sequencerStep, h]

/-- The sequencer issues no START: it is a word of the other format (R80). -/
theorem ne_start_of_decode_micro {w : Byte} {i : Instr} (h : decode .micro w = .ok i) : i ≠ .start := by
  rintro rfl
  have hf := ((decodeAndEncodeAgree .micro w .start).1 h).1
  cases hf

/-- No instruction but START puts an alternate operation in flight. -/
theorem exec_alt_none {i : Instr} (hi : i ≠ .start) (ha : s.alt = none) (h : exec i s = .next t) : t.alt = none := by
  obtain ⟨-, -, -, hkept, -⟩ := registersChangeOnlyByTheirInstructions i s t h
  exact (hkept hi).2.1.trans ha

/-- Settles O4: the sequencer's part by the word issued, which the host's writes leave alone, and the word by the phase. -/
theorem stepRunsTheIssuedMicroOperation : Obligations.StepRunsTheIssuedMicroOperation := by
  refine ⟨fun s i hl hr hc hi _ => ?_, fun s =>
    ⟨decode_idleWord, decode_arkWord, decode_isrWord, decode_isbWord, decode_imcWord, decode_storeWord⟩⟩
  have hstep : step s = andThen (exec i s.afterHostWrites) fun t => .next t.altTick := by
    rw [step_of_no_reset hl hr, commandStep_of_no_effect (.inl hc),
      sequencerStep_of_decode (afterHostWrites_sequencerWord ▸ hi)]
  refine ⟨fun ha => hstep.trans (andThen_altTick_of_none fun t => ?_), hstep⟩
  exact exec_alt_none (ne_start_of_decode_micro hi) (afterHostWrites_alt_none ha)

/-- Settles O5: the command's part of the step is START alone, and outside ALT_REAL it puts nothing in flight. -/
theorem stepRunsAnAcceptedStart : Obligations.StepRunsAnAcceptedStart := by
  intro s hl hr hc hp
  have hstep : step s = andThen (exec .start s.afterHostWrites) fun t => .next t.altTick := by
    rw [step_of_no_reset hl hr, hc]
    exact congrArg (andThen · _) (commandStep_of_start (afterHostWrites_ph.trans hp))
  refine ⟨fun hb ha => hstep.trans (andThen_altTick_of_none fun t ht => ?_), hstep⟩
  exact (exec_start_mem_alt (by rwa [afterHostWrites_build]) ht).2.trans (afterHostWrites_alt_none ha)

/-- The host's coming turn without its command. -/
def State.withoutCommand (s : State) : State := { s with host := { s.turn with cmd := none } :: s.host.tail }

theorem withoutCommand_afterHostWrites : s.withoutCommand.afterHostWrites = s.afterHostWrites := rfl

/-- Settles O6: the two steps differ in the command alone, and either one leaves it to the sequencer. -/
theorem commandsWithoutEffectAreLost : Obligations.CommandsWithoutEffectAreLost := by
  intro s hc
  have hlost : commandStep s.turn.cmd s.afterHostWrites = commandStep none s.afterHostWrites := by
    rw [commandStep_of_no_effect (.inl rfl), commandStep_of_no_effect]
    rw [afterHostWrites_ph]
    exact .inr hc
  show step s = step s.withoutCommand
  unfold step
  rw [hlost, withoutCommand_afterHostWrites]
  rfl

/-! ## START -/

theorem keyLenOf_keyLenCode (kl : KeyLen) : keyLenOf (keyLenCode kl) = some kl := by cases kl <;> rfl

/-- START looks at bits 1:0 of `KL` (R29). -/
theorem readKl_of_byte {v : Byte} {kl : KeyLen} (hv : memRead s.mem (s.locate .kl 0) = some v)
    (hkl : v.toNat % 4 = (keyLenCode kl).toNat) : s.readKl = .ok kl := by
  have hcode : v.extractLsb' 0 2 = keyLenCode kl := BitVec.eq_of_toNat_eq (by simpa using hkl)
  simp only [State.readKl, hv, hcode, keyLenOf_keyLenCode]

/-- Settles O12: `beginSoft_next_iff` with the two reads it asks for. -/
theorem startBeginsASoftOperation : Obligations.StartBeginsASoftOperation := by
  intro s v kl inp hp hb hv hkl hinp
  have hread : s.readBlock .inp 0 = .ok inp :=
    readBlock_ok_iff.2 ⟨Nat.le_refl 16, fun i hi => (locate_zero_add .inp i).symm ▸ hinp i hi⟩
  exact (exec_start_soft hp hb).trans (beginSoft_next_iff.2 ⟨kl, inp, readKl_of_byte hv hkl, hread, rfl⟩)

/-- Settles O14: by the phase, and in phase IDLE by the operation in flight. -/
theorem startWhileAnOperationRunsIsIgnored : Obligations.StartWhileAnOperationRunsIsIgnored := by
  intro s h
  by_cases hp : s.ph = .idle
  · obtain ⟨hb, ha⟩ := h.resolve_left (not_not_intro hp)
    rw [exec_start_real hp hb, State.handToAlternate, if_pos ha]
  · exact exec_start_of_running hp

/-- Settles O15: by definition. -/
theorem cnopAndNopChangeNothing : Obligations.CnopAndNopChangeNothing :=
  fun _ => ⟨exec_cnop_next_iff.2 rfl, exec_nop_next_iff.2 rfl⟩

/-! ### The hand-over to an alternate backend -/

/-- The schedule an alternate backend is given is the list of the round keys read one by one. -/
theorem readSchedule_of_keys {rk : Nat → Block} {n : Nat} (h : ∀ k, k < n → s.readBlock .rk (roundKeyIndex k) = .ok (rk k)) :
    s.readSchedule n = .ok ((List.range n).map rk) := by
  induction n with
  | zero => rfl
  | succ n ih =>
    simp only [State.readSchedule, ih fun k hk => h k (Nat.lt_succ_of_lt hk), h n (Nat.lt_succ_self n), List.range_succ,
      List.map_append, List.map_cons, List.map_nil]

theorem invRounds_congr {rk rk' : Nat → Block} {n : Nat} (h : ∀ k, k < n → rk k = rk' k) (x : Block) :
    invRounds rk n x = invRounds rk' n x := by
  induction n generalizing x with
  | zero => rfl
  | succ n ih =>
    cases n with
    | zero => simp only [invRounds, h 0 Nat.one_pos]
    | succ n => simp only [invRounds, h (n + 1) (Nat.lt_succ_self _), ih fun k hk => h k (Nat.lt_succ_of_lt hk)]

/-- InvCipher of `nr` rounds reads the round keys 0 to `nr` alone (R166). -/
theorem invCipher_congr {rk rk' : Nat → Block} {nr : Nat} (h : ∀ k, k ≤ nr → rk k = rk' k) (x : Block) :
    invCipher rk nr x = invCipher rk' nr x := by
  rw [invCipher, invCipher, h nr le_rfl, invRounds_congr fun k hk => h k hk.le]

/-- The outcome on the schedule as a list is that on the schedule itself (R193). -/
theorem altOutcome_of_keys (kl : KeyLen) (rk : Nat → Block) (inp : Block) :
    altOutcome kl ((List.range (keyLenRounds kl + 1)).map rk) inp =
      if Config.altOk kl ((List.range (keyLenRounds kl + 1)).map rk) inp = true
        then some (invCipher rk (keyLenRounds kl) inp) else none := by
  have hkeys : ∀ k, k ≤ keyLenRounds kl →
      ((List.range (keyLenRounds kl + 1)).map rk).getD k (Vector.replicate 16 0) = rk k := fun k hk => by
    simp [List.getD_eq_getElem?_getD, List.getElem?_range (Nat.lt_succ_of_le hk)]
  rw [altOutcome, invCipher_congr hkeys]

theorem exec_start_of_ready_real {kl : KeyLen} {rk : Nat → Block} {inp : Block} (hp : s.ph = .idle)
    (hb : s.build.backend = .altReal) (ha : s.alt = none) (h : s.Ready kl rk inp) :
    exec .start s = .next
      { s with
        alt := some (.handedOver kl ((List.range (keyLenRounds kl + 1)).map rk) inp s.draws)
        result := .none, draws := s.draws + 1 } := by
  have hkeys := readSchedule_of_keys fun k hk => h.schedule k (Nat.le_of_lt_succ hk)
  simp only [exec_start_real hp hb, State.handToAlternate, ha, Option.isSome_none, h.keyLen, h.input, hkeys, onValue]
  rfl

/-- Settles O18: the operation handed over, its outcome by the schedule read. -/
theorem startHandsOverToTheAlternateBackend : Obligations.StartHandsOverToTheAlternateBackend := by
  intro s kl rk inp hp hb ha hready
  refine ⟨_, exec_start_of_ready_real hp hb ha hready, rfl, rfl, altOutcome_of_keys kl rk inp, fun hfail => ?_, rfl⟩
  exact Option.some_injective _ (handedOver_failIn hfail).symm

/-! ## The sequencer's registers -/

theorem sequencerStep_alt_none (ha : s.alt = none) (h : sequencerStep s = .next t) : t.alt = none := by
  obtain ⟨i, hi, hstart, -⟩ := sequencerStep_next_exec h
  exact exec_alt_none hstart ha hi

/-- What a step of a SOFT build that goes on has been, as the host's turn and the phase say: reset, an accepted START, or the
sequencer's micro-operation. -/
theorem soft_step_next (hb : s.build.backend = .soft) (ha : s.alt = none) (h : step s = .next t) :
    if s.turn.reset = true then t = s.afterHostWrites.afterReset
    else if s.ph = .idle ∧ s.turn.cmd = some (encode .start) then s.afterHostWrites.beginSoft = .next t
    else sequencerStep s.afterHostWrites = .next t := by
  have hl := (step_next_cases h).1
  have hw : s.afterHostWrites.alt = none := afterHostWrites_alt_none ha
  split_ifs with hr hstart
  · rw [step, if_pos hl, if_pos hr] at h
    cases h
    rfl
  · have hpw : s.afterHostWrites.ph = .idle := afterHostWrites_ph.trans hstart.1
    have hbw : s.afterHostWrites.build.backend = .soft := by rw [afterHostWrites_build, hb]
    rw [step_of_no_reset hl (by simpa using hr), hstart.2, commandStep_of_start hpw] at h
    obtain ⟨v, hv, hvt⟩ := andThen_next_iff.1 h
    rw [altTick_of_none ((exec_start_mem_alt (by simp [hbw]) hv).2.trans hw)] at hvt
    cases hvt
    exact exec_start_soft hpw hbw ▸ hv
  · rw [step_of_no_reset hl (by simpa using hr)] at h
    obtain ⟨v, hv, hvt⟩ := andThen_next_iff.1 h
    rcases commandStep_cases s.turn.cmd s.afterHostWrites with ⟨-, e⟩ | ⟨hc, hp, -⟩ | ⟨w, -, -, -, e⟩
    · rw [e] at hv
      rw [altTick_of_none (sequencerStep_alt_none hw hv)] at hvt
      cases hvt
      exact hv
    · exact absurd ⟨afterHostWrites_ph.symm.trans hp, hc⟩ hstart
    · rw [e] at hv
      cases hv

/-- The sequencer's registers and `STATUS`: what the sequence of micro-operations depends on (R168). -/
structure Control where
  ph     : Phase
  rnd    : BitVec 4
  nrl    : BitVec 4
  busy   : Bool
  result : Result

def State.control (s : State) : Control := ⟨s.ph, s.rnd, s.nrl, s.busy, s.result⟩

/-- The next-state table of R163. -/
def Control.next (c : Control) : Control :=
  match c.ph with
  | .idle => c
  | .ark =>
    { c with
      rnd := if c.rnd = c.nrl then c.rnd - 1 else c.rnd
      ph := if c.rnd = c.nrl then .isr else if c.rnd = 0 then .store else .imc }
  | .isr => { c with ph := .isb }
  | .isb => { c with ph := .ark }
  | .imc => { c with rnd := c.rnd - 1, ph := .isr }
  | .store => { c with ph := .idle, busy := false, result := .ok }

/-- A micro-operation moves the sequencer by the table, whatever the data it reads. -/
theorem sequencerStep_control (h : sequencerStep s = .next t) : t.control = s.control.next := by
  rw [sequencerStep_eq (rnd_le_of_sequencerStep_next h)] at h
  cases hp : s.ph <;> simp only [hp] at h
  case idle => rw [exec_nop_next_iff.1 h]; simp [Control.next, State.control, hp]
  case ark =>
    obtain ⟨-, b, r, -, -, rfl⟩ := exec_ark_next_iff.1 h
    simp [Control.next, State.control, hp]
  case isr => obtain ⟨b, -, rfl⟩ := exec_isr_next_iff.1 h; simp [Control.next, State.control, hp]
  case isb => obtain ⟨b, -, rfl⟩ := exec_isb_next_iff.1 h; simp [Control.next, State.control, hp]
  case imc => obtain ⟨b, -, rfl⟩ := exec_imc_next_iff.1 h; simp [Control.next, State.control, hp]
  case store => obtain ⟨b, -, rfl⟩ := exec_sto_next_iff.1 h; simp [Control.next, State.control, hp]

/-- START sets all of them, by `KL` alone (R161). -/
theorem beginSoft_control (h : s.beginSoft = .next t) :
    ∃ kl, s.readKl = .ok kl ∧
      t.control = ⟨.ark, BitVec.ofNat 4 (keyLenRounds kl), BitVec.ofNat 4 (keyLenRounds kl), true, .none⟩ := by
  obtain ⟨kl, b, hk, -, rfl⟩ := beginSoft_next_iff.1 h
  exact ⟨kl, hk, rfl⟩

theorem afterHostWrites_control : s.afterHostWrites.control = s.control := by
  obtain ⟨-, hp, hr, hn, hb, hres, -⟩ := afterHostWrites_frame (s := s)
  simp only [State.control, hp, hr, hn, hb, hres]

/-! ### Not by data -/

theorem status_of_control (h : s.control = u.control) : s.status = u.status := by
  have hbusy : s.busy = u.busy := congrArg Control.busy h
  have hres : s.result = u.result := congrArg Control.result h
  rw [State.status, State.status, hbusy, hres]

theorem microOp_of_control (hb : s.build = u.build) (hh : s.host = u.host) (h : s.control = u.control) :
    s.microOp = u.microOp := by
  have hp : s.ph = u.ph := congrArg Control.ph h
  have hr : s.rnd = u.rnd := congrArg Control.rnd h
  have hturn : s.turn = u.turn := by rw [State.turn, State.turn, hh]
  have hword : s.sequencerWord = u.sequencerWord := by rw [State.sequencerWord, State.sequencerWord, hp, hr]
  rw [State.microOp, State.microOp, hturn, hp, hb, hword]

/-- Two SOFT machines beside the same host take the same branch of a step, and each branch sets or moves the sequencer's
registers in the same way. -/
theorem step_control (hsoft : s.build.backend = .soft) (husoft : u.build.backend = .soft) (ha : s.alt = none)
    (hua : u.alt = none) (hh : s.host = u.host) (hc : s.control = u.control)
    (hk : s.afterHostWrites.readKl = u.afterHostWrites.readKl) {s' u' : State} (hs : step s = .next s')
    (hu : step u = .next u') : s'.control = u'.control := by
  have hturn : s.turn = u.turn := by rw [State.turn, State.turn, hh]
  have hp : s.ph = u.ph := congrArg Control.ph hc
  have hs' := soft_step_next hsoft ha hs
  have hu' := soft_step_next husoft hua hu
  rw [hturn, hp] at hs'
  split_ifs at hs' hu' with hr hstart
  · rw [hs', hu']
    rfl
  · obtain ⟨kl, hkl, hsc⟩ := beginSoft_control hs'
    obtain ⟨kl', hkl', huc⟩ := beginSoft_control hu'
    have hsame : kl = kl' := Except.ok.inj (hkl.symm.trans (hk.trans hkl'))
    rw [hsc, huc, hsame]
  · rw [sequencerStep_control hs', sequencerStep_control hu', afterHostWrites_control, afterHostWrites_control, hc]

/-- Settles O50: the sequencer's registers of the two are the same before the step, and so after it. -/
theorem theSequenceDoesNotDependOnData : Obligations.TheSequenceDoesNotDependOnData := by
  intro s u s' u' hb hsoft hh hp hr hn hbusy hres ha hua hk hs hu
  have hc : s.control = u.control := by simp only [State.control, hp, hr, hn, hbusy, hres]
  have hc' := step_control hsoft (hb ▸ hsoft) ha hua hh hc hk hs hu
  exact ⟨microOp_of_control hb hh hc, congrArg Control.ph hc', congrArg Control.rnd hc', congrArg Control.nrl hc',
    status_of_control hc'⟩

/-! ### Nearer the end -/

theorem stepsLeft_eq_zero_iff (s : State) : s.stepsLeft = 0 ↔ s.ph = .idle := by
  unfold State.stepsLeft
  cases s.ph with
  | idle | isr | isb | imc | store => simp
  | ark => split_ifs <;> simp

theorem stepsLeft_of_control (h : s.control = u.control) : s.stepsLeft = u.stepsLeft := by
  have hp : s.ph = u.ph := congrArg Control.ph h
  have hr : s.rnd = u.rnd := congrArg Control.rnd h
  have hn : s.nrl = u.nrl := congrArg Control.nrl h
  rw [State.stepsLeft, State.stepsLeft, hp, hr, hn]

/-- An operation is at most its first ARK and all its rounds from its end. -/
theorem State.Inv.stepsLeft_le (h : s.Inv) (hrun : s.ph ≠ .idle) : s.stepsLeft ≤ 4 * s.nrl.toNat + 1 := by
  have hround := h.round
  have hn0 : s.nrl ≠ 0 := (h.running hrun).2.1
  unfold roundFits at hround
  unfold State.stepsLeft
  cases hp : s.ph <;> simp only [hp] at hround ⊢
  case idle => exact Nat.zero_le _
  case ark => split_ifs <;> bv_omega
  case isr => bv_omega
  case isb => bv_omega
  case imc => bv_omega
  case store => bv_omega

/-- Each micro-operation of an operation takes one step off. -/
theorem State.Inv.stepsLeft_sequencerStep (h : s.Inv) (hrun : s.ph ≠ .idle) (ht : Machine.sequencerStep s = .next t) :
    t.stepsLeft + 1 = s.stepsLeft := by
  have hround := h.round
  have hn0 : s.nrl ≠ 0 := (h.running hrun).2.1
  have hp' : t.ph = s.control.next.ph := congrArg Control.ph (sequencerStep_control ht)
  have hr' : t.rnd = s.control.next.rnd := congrArg Control.rnd (sequencerStep_control ht)
  have hn' : t.nrl = s.control.next.nrl := congrArg Control.nrl (sequencerStep_control ht)
  unfold roundFits at hround
  unfold State.stepsLeft
  cases hp : s.ph <;> simp only [Control.next, State.control, hp] at hround hp' hr' hn' ⊢
  case idle => exact absurd hp hrun
  case ark =>
    by_cases hfirst : s.rnd = s.nrl
    · simp only [if_pos hfirst] at hp' hr' ⊢
      simp only [hp', hr']
      bv_omega
    · by_cases hlast : s.rnd = 0
      · simp only [if_neg hfirst, if_pos hlast] at hp' ⊢
        simp only [hp', hlast]
        rfl
      · simp only [if_neg hfirst, if_neg hlast] at hp' hr' ⊢
        simp only [hp', hr']
  case isr => simp only [hp', hr']
  case isb => simp only [hp', hr', hn', if_neg (BitVec.ne_of_lt hround)]
  case imc =>
    simp only [hp', hr']
    bv_omega
  case store => simp only [hp']

/-- Settles O49: in a step without reset the running operation makes its micro-operation, and that takes one step off. -/
theorem everyStepBringsTheEndNearer : Obligations.EveryStepBringsTheEndNearer := by
  intro s t h hrun hr hstep
  have hsoft := (h.running hrun).1
  have hseq := soft_step_next hsoft (h.alt_none (by simp [hsoft])) hstep
  rw [if_neg (by simp [hr]), if_neg fun hstart => hrun hstart.1] at hseq
  have hleft := h.afterHostWrites.stepsLeft_sequencerStep (by rwa [afterHostWrites_ph]) hseq
  rw [stepsLeft_of_control afterHostWrites_control] at hleft
  exact ⟨hleft, h.stepsLeft_le hrun, stepsLeft_eq_zero_iff t⟩

/-! ## A whole operation -/

/-! ### What it executes -/

section Counts

variable {φ : List Instr → Nat} {c : Nat}

/-- A count over a list of micro-operations: it is 0 of none and adds up over parts. -/
structure IsCount (φ : List Instr → Nat) : Prop where
  nil : φ [] = 0
  append : ∀ a b, φ (a ++ b) = φ a + φ b

theorem isCount_count (i : Instr) : IsCount (List.count i) := ⟨rfl, fun _ _ => List.count_append⟩

theorem isCount_sum (f : Instr → Nat) : IsCount fun l => (l.map f).sum :=
  ⟨rfl, fun a b => by rw [List.map_append, List.sum_append]⟩

/-- What is counted in the full rounds, where each round has the same, whatever its round key. -/
theorem IsCount.irounds (h : IsCount φ) (hround : ∀ k, φ (iround k) = c) (n : Nat) : φ (irounds n) = n * c := by
  induction n with
  | zero => rw [Nat.zero_mul]; exact h.nil
  | succ n ih => rw [Machine.irounds, h.append, hround, ih, Nat.succ_mul, Nat.add_comm]

/-- What is counted in `DECRYPT nr`: before the full rounds, in them, and after them (R92). -/
theorem IsCount.decryptOps (h : IsCount φ) (hround : ∀ k, φ (iround k) = c) (nr : Nat) :
    φ (decryptOps nr) = φ [.lds, .ark (BitVec.ofNat 4 nr)] + ((nr - 1) * c + φ ifinal + φ [.sto]) := by
  have hparts : Machine.decryptOps nr = [.lds, .ark (BitVec.ofNat 4 nr)] ++ (Machine.irounds (nr - 1) ++ ifinal ++ [.sto]) :=
    rfl
  rw [hparts, h.append, h.append, h.append, h.irounds hround]

end Counts

/-- How often each operation stands in `DECRYPT nr` (R165). -/
theorem decryptOps_counts {nr : Nat} (hnr : 0 < nr) :
    (decryptOps nr).count .lds = 1 ∧ (decryptOps nr).count .isr = nr ∧ (decryptOps nr).count .isb = nr ∧
      (decryptOps nr).count .imc = nr - 1 ∧ (decryptOps nr).count .sto = 1 := by
  refine ⟨?lds, ?isr, ?isb, ?imc, ?sto⟩
  case lds => rw [(isCount_count _).decryptOps (c := 0) fun _ => rfl]; simp [ifinal]
  case isr => rw [(isCount_count _).decryptOps (c := 1) fun _ => rfl]; simp [ifinal]; omega
  case isb => rw [(isCount_count _).decryptOps (c := 1) fun _ => rfl]; simp [ifinal]; omega
  case imc => rw [(isCount_count _).decryptOps (c := 1) fun _ => rfl]; simp [ifinal]
  case sto => rw [(isCount_count _).decryptOps (c := 0) fun _ => rfl]; simp [ifinal]

/-- What the operations of `DECRYPT nr` read of the tables and of the schedule (R56, R165). -/
theorem decryptOps_reads {nr : Nat} (hnr : 0 < nr) :
    ((decryptOps nr).map sboxReads).sum = 16 * nr ∧ ((decryptOps nr).map gmulReads).sum = 16 * (nr - 1) ∧
      ((decryptOps nr).map keyBytesRead).sum = 16 * (nr + 1) := by
  refine ⟨?sbox, ?gmul, ?key⟩
  case sbox => rw [(isCount_sum sboxReads).decryptOps (c := 16) fun _ => rfl]; simp [ifinal, sboxReads]; omega
  case gmul => rw [(isCount_sum gmulReads).decryptOps (c := 16) fun _ => rfl]; simp [ifinal, gmulReads]; omega
  case key => rw [(isCount_sum keyBytesRead).decryptOps (c := 16) fun _ => rfl]; simp [ifinal, keyBytesRead]; omega

/-- The round keys a list of micro-operations adds, in order. -/
def keysAdded (l : List Instr) : List Nat := l.filterMap fun i => arkIndex (some i)

theorem keysAdded_append (a b : List Instr) : keysAdded (a ++ b) = keysAdded a ++ keysAdded b := List.filterMap_append

theorem keysAdded_iround {k : Nat} (hk : k < 16) : keysAdded (iround k) = [k] := by
  simp [keysAdded, iround, arkIndex, Nat.mod_eq_of_lt hk]

/-- The full rounds from `n` down and the final round add the round keys `n` down to 0 (R61). -/
theorem keysAdded_rounds {n : Nat} (hn : n < 16) : keysAdded (irounds n ++ ifinal) = countdown n := by
  induction n with
  | zero => rfl
  | succ n ih =>
    rw [irounds, List.append_assoc, keysAdded_append, keysAdded_iround hn, ih (Nat.lt_of_succ_lt hn)]
    rfl

theorem keysAdded_decryptOps {nr : Nat} (h0 : 0 < nr) (hnr : nr < 16) : keysAdded (decryptOps nr) = countdown nr := by
  obtain ⟨n, rfl⟩ : ∃ n, nr = n + 1 := ⟨nr - 1, by omega⟩
  have hfirst : keysAdded [.lds, .ark (BitVec.ofNat 4 (n + 1))] = [n + 1] := by
    simp [keysAdded, arkIndex, Nat.mod_eq_of_lt hnr]
  have hparts : decryptOps (n + 1) = [.lds, .ark (BitVec.ofNat 4 (n + 1))] ++ (irounds n ++ ifinal ++ [.sto]) := rfl
  have hsto : keysAdded [.sto] = [] := rfl
  rw [hparts, keysAdded_append, keysAdded_append, hfirst, keysAdded_rounds (Nat.lt_of_succ_lt hnr), hsto, List.append_nil,
    List.singleton_append, countdown]

theorem countdown_length (n : Nat) : (countdown n).length = n + 1 := by
  induction n with
  | zero => rfl
  | succ n ih => rw [countdown, List.length_cons, ih]

/-- Settles O41: the trace is `DECRYPT nr`, where they are counted. -/
theorem countsPerOperation : Obligations.CountsPerOperation := by
  intro s first turns kl rk inp hl hhost hr hc hlen hh hp hb ha hready
  obtain ⟨htrace, hlength, -⟩ := anOperationRunsDecrypt s first turns kl rk inp hl hhost hr hc hlen hh hp hb ha hready
  have hpos := keyLenRounds_pos kl
  have hcount : ∀ i, ((decryptOps (keyLenRounds kl)).map some).count (some i) = (decryptOps (keyLenRounds kl)).count i :=
    List.count_map_of_injective _ some (Option.some_injective Instr)
  have hops : ((decryptOps (keyLenRounds kl)).map some).filterMap id = decryptOps (keyLenRounds kl) := by
    simp [List.filterMap_map]
  have hkeys : ((decryptOps (keyLenRounds kl)).map some).filterMap arkIndex = countdown (keyLenRounds kl) :=
    List.filterMap_map.trans (keysAdded_decryptOps hpos (Nat.lt_of_le_of_lt (keyLenRounds_le kl) (by decide)))
  obtain ⟨hlds, hisr, hisb, himc, hsto⟩ := decryptOps_counts hpos
  obtain ⟨hsbox, hgmul, hkey⟩ := decryptOps_reads hpos
  simp only [htrace, List.length_map, hcount, hops, hkeys, countdown_length, true_and]
  exact ⟨hlength, hlds, hisr, hisb, himc, hsto, hsbox, hgmul, hkey⟩

/-! ### What it comes to -/

theorem altTick_host : s.altTick.host = s.host := by
  have htick : ∀ (v : State) (op : AltOp), (v.tickAlt op).host = v.host := fun v op => by
    rcases tickAlt_cases (s := v) op with ⟨-, e⟩ | ⟨-, e⟩ <;> rw [e]
    · rcases settleAlt_eq (s := v) op.plain with ⟨b, -, e⟩ | ⟨-, e⟩ <;> rw [e] <;> rfl
    · rfl
  rcases altTick_cases s with ⟨-, e⟩ | ⟨op, -, -, e⟩ | ⟨op, -, -, e⟩ <;> rw [e]
  · exact htick s op
  · exact htick s.countDraw _

/-- Every step uses up one turn of the host (log 6). -/
theorem step_host (h : step s = .next t) : t.host = s.host.tail := by
  rw [← afterHostWrites_host]
  obtain ⟨-, ⟨-, rfl⟩ | ⟨-, -, -, v, hv, rfl⟩ | ⟨-, v, hv, rfl⟩⟩ := step_next_cases h
  · rfl
  · exact altTick_host.trans (registersChangeOnlyByTheirInstructions _ _ _ hv).2.1
  · obtain ⟨i, hi, -⟩ := sequencerStep_next_exec hv
    exact altTick_host.trans (registersChangeOnlyByTheirInstructions i _ _ hi).2.1

/-- A run that goes on uses up as many turns as it has steps. -/
theorem run_host {m : Nat} (h : Host.Core.run core m s = .next u) : u.host = s.host.drop m := by
  induction m generalizing s with
  | zero => cases h; rfl
  | succ m ih =>
    cases hs : core.step s with
    | next t => rw [ih ((run_succ hs m).symm.trans h), step_host hs, List.drop_tail]
    | fault e => simp [Host.Core.run, hs] at h
    | refused e => simp [Host.Core.run, hs] at h

/-- The last step of an operation beside a host that is idle: STO, and nothing else is written. -/
theorem State.Operating.step_last_of_idle_host {kl : KeyLen} {rk : Nat → Block} {plain : Block}
    (h : s.Operating kl rk plain 1) (hh : s.host = []) :
    Machine.step s = .next { s.dropTurn with
      sMat := none, ph := .idle, busy := false, result := .ok, mem := memWriteBlock s.mem (s.locate .out 0) plain } := by
  have hturn : s.turn = {} := by rw [State.turn, hh]; rfl
  have hlast := h.step_last (turn_harmless (by simp [hh]))
  rwa [afterHostWrites_of_no_writes (by rw [hturn])] at hlast

/-- Settles O42: beside an idle host the storage is as it was until the last step, and that is STO's. -/
theorem anOperationComputesInvCipher : Obligations.AnOperationComputesInvCipher := by
  intro s kl rk inp hl hhost hp hb ha hready
  obtain ⟨t, hstep, hop, hmem, hbuild, hthost⟩ := (beginsOperation_of_startTurn hl hhost hp hb ha hready).step
  rw [afterHostWrites_of_startTurn hhost, State.dropTurn_mem] at hmem
  have hquiet : t.host = [] := by rw [hthost, hhost]; rfl
  obtain ⟨u, hrun, hu, hubuild, -, humem⟩ := State.Operating.run (n := 1) (m := 4 * keyLenRounds kl) le_rfl
    (by rwa [Nat.add_comm]) (by simp [hquiet])
  have hlast := hu.step_last_of_idle_host (by rw [run_host hrun, hquiet, List.drop_nil])
  rw [locate_congr (hubuild.trans hbuild), (humem (by simp [hquiet])).trans hmem] at hlast
  refine ⟨_, (run_succ hstep _).trans ((run_add hrun 1).trans (run_succ hlast 0)), fun i hi => ?written, fun a ha => ?kept,
    rfl, rfl, rfl, rfl, hubuild.trans hbuild⟩
  case written => exact locate_zero_add (s := s) .out i ▸ memRead_memWriteBlock_inside s.mem _ _ i hi
  case kept => exact memRead_memWriteBlock_outside s.mem _ _ a ha

/-! ## The two ciphers -/

@[simp] theorem getElem_subBytes (b : Block) (i : Nat) (hi : i < 16) : (subBytes b)[i] = sbox b[i] := by
  simp [subBytes]

theorem invSubBytes_subBytes (b : Block) : invSubBytes (subBytes b) = b := by
  ext1 i hi
  rw [getElem_invSubBytes, getElem_subBytes, invSbox_sbox]

theorem subBytes_invSubBytes (b : Block) : subBytes (invSubBytes b) = b := by
  ext1 i hi
  rw [getElem_subBytes, getElem_invSubBytes, sbox_invSbox]

/-- The part every round has in common, undone by its forward part. -/
theorem invSubBytes_invShiftRows_forward (x : Block) : invSubBytes (invShiftRows (shiftRows (subBytes x))) = x := by
  rw [invShiftRows_shiftRows, invSubBytes_subBytes]

theorem forward_invSubBytes_invShiftRows (x : Block) : shiftRows (subBytes (invSubBytes (invShiftRows x))) = x := by
  rw [subBytes_invSubBytes, shiftRows_invShiftRows]

/-- The rounds of InvCipher undo those of the forward cipher, the last forward round first. -/
theorem invRounds_forwardRounds (rk : Nat → Block) (n : Nat) (p : Block) :
    invRounds rk (n + 1) (shiftRows (subBytes (forwardRounds rk p n))) = p := by
  induction n with
  | zero => rw [invRounds, invSubBytes_invShiftRows_forward, forwardRounds, xorBlock_self_right]
  | succ n ih =>
    rw [invRounds, invSubBytes_invShiftRows_forward, forwardRounds, xorBlock_self_right, invMixColumns_mixColumns, ih]

/-- The rounds of the forward cipher undo those of InvCipher, the last inverse round first. -/
theorem forwardRounds_invRounds (rk : Nat → Block) (n : Nat) (x : Block) :
    shiftRows (subBytes (forwardRounds rk (invRounds rk (n + 1) x) n)) = x := by
  induction n generalizing x with
  | zero => rw [invRounds, forwardRounds, xorBlock_self_right, forward_invSubBytes_invShiftRows]
  | succ n ih =>
    rw [forwardRounds, invRounds, ih, mixColumns_invMixColumns, xorBlock_self_right, forward_invSubBytes_invShiftRows]

/-- Settles O39: outside the rounds either cipher adds round key `nr`, and adding it twice adds nothing. -/
theorem decryptUndoesEncrypt : Obligations.DecryptUndoesEncrypt := by
  intro rk nr p hnr
  obtain ⟨n, rfl⟩ : ∃ n, nr = n + 1 := ⟨nr - 1, by omega⟩
  constructor
  · rw [invCipher, forwardCipher, xorBlock_self_right, invRounds_forwardRounds]
  · rw [invCipher, forwardCipher, forwardRounds_invRounds, xorBlock_self_right]

end Sys2Proof.Machine

/-! # Proofs: the backends (46_backend.md)

First the step of an alternate backend and what no step changes; then the stub. Then an operation in flight in a real
alternate backend: its step beside any host that lets it run, its end by a count beside an idle host, and the one time at
which it can fail. -/

namespace Sys2Proof.Machine

variable {s t v : State} {op : AltOp} {m : Nat}

/-! ## The build -/

/-- The alternate backend moves the storage, `RESULT`, the operation in flight and the count of draws alone. -/
theorem altTick_frame (s : State) :
    ∃ mem res alt d, s.altTick = { s with mem := mem, result := res, alt := alt, draws := d } := by
  have htick : ∀ (v : State) (op : AltOp),
      ∃ mem res alt, v.tickAlt op = { v with mem := mem, result := res, alt := alt } := fun v op => by
    rcases tickAlt_cases (s := v) op with ⟨-, e⟩ | ⟨-, e⟩ <;> rw [e]
    · rcases settleAlt_eq (s := v) op.plain with ⟨b, -, e⟩ | ⟨-, e⟩ <;> rw [e] <;> exact ⟨_, _, _, rfl⟩
    · exact ⟨_, _, _, rfl⟩
  rcases altTick_cases s with ⟨-, e⟩ | ⟨op, -, -, e⟩ | ⟨op, -, -, e⟩ <;> rw [e]
  · exact ⟨_, _, _, _, rfl⟩
  · obtain ⟨mem, res, alt, e⟩ := htick s op
    exact ⟨mem, res, alt, s.draws, e⟩
  · obtain ⟨mem, res, alt, e⟩ := htick s.countDraw (op.redrawn s.draws)
    exact ⟨mem, res, alt, s.draws + 1, e⟩

@[simp] theorem altTick_build : s.altTick.build = s.build := by
  obtain ⟨mem, res, alt, d, e⟩ := altTick_frame s
  rw [e]

/-- Settles O33: neither the host's writes, nor reset, nor an instruction, nor the alternate backend changes the build. -/
theorem theBuildNeverChanges : Obligations.TheBuildNeverChanges := by
  intro s t h
  have hw := afterHostWrites_build (s := s)
  obtain ⟨-, ⟨-, rfl⟩ | ⟨-, -, -, u, hu, rfl⟩ | ⟨-, u, hu, rfl⟩⟩ := step_next_cases h
  · exact hw
  · exact altTick_build.trans ((registersChangeOnlyByTheirInstructions _ _ _ hu).1.trans hw)
  · obtain ⟨i, hi, -⟩ := sequencerStep_next_exec hu
    exact altTick_build.trans ((registersChangeOnlyByTheirInstructions i _ _ hi).1.trans hw)

/-! ## FAIL and the stub -/

/-- Settles O16: what FAIL has done, as its inversion lemma says it. -/
theorem failReportsUnsupported : Obligations.FailReportsUnsupported := fun _ => exec_fail_next_iff.2 rfl

/-- Settles O17: the step is START's, and START of an ALT_STUB build looks at nothing but the phase and the backend. -/
theorem stubStartAlwaysFails : Obligations.StubStartAlwaysFails := by
  intro s hl hr hc hp hb ha
  have hstep : step s = exec .start s.afterHostWrites := (stepRunsAnAcceptedStart s hl hr hc hp).1 (by simp [hb]) ha
  have hstart : exec .start s.afterHostWrites = .next { s.afterHostWrites with result := .featureUnsupported } :=
    exec_start_stub (afterHostWrites_ph.trans hp) (by rwa [afterHostWrites_build])
  have hnext := hstep.trans hstart
  exact ⟨hnext.trans (failReportsUnsupported _).symm, hnext⟩

/-! ## An operation in flight in a real alternate backend -/

/-- The operation `op` is in flight in an ALT_REAL build: the sequencer is idle and `RESULT` is NONE (R86, R193). -/
structure State.InFlight (s : State) (op : AltOp) : Prop where
  legal : placeLegal s.build.place = true
  idle : s.ph = .idle
  real : s.build.backend = .altReal
  alt : s.alt = some op
  result : s.result = .none

/-- A turn that neither resets nor writes a reserved command; it may write the schedule in use. -/
def HostTurn.letsRun (t : HostTurn) : Prop :=
  t.reset = false ∧ (t.cmd = none ∨ t.cmd = some (encode .cnop) ∨ t.cmd = some (encode .start))

theorem turn_letsRun (h : ∀ t ∈ s.host, t.letsRun) : s.turn.letsRun := by
  unfold State.turn
  cases hs : s.host with
  | nil => exact ⟨rfl, .inl rfl⟩
  | cons t ts => exact h t (by simp [hs])

theorem State.InFlight.afterHostWrites (h : s.InFlight op) :
    ∃ d, s.afterHostWrites.InFlight { op with dirty := d } := by
  obtain ⟨d, hd⟩ := afterHostWrites_alt_some h.alt
  obtain ⟨-, hp, -, -, -, hres, hb, -⟩ := afterHostWrites_frame (s := s)
  exact ⟨d, hb ▸ h.legal, hp.trans h.idle, hb ▸ h.real, hd, hres.trans h.result⟩

/-- While an operation is in flight the sequencer issues NOP and a START is ignored (R254), so that the step is the host's
writes and the alternate backend's step. -/
theorem State.InFlight.step (h : s.InFlight op) (ht : s.turn.letsRun) :
    Machine.step s = .next s.afterHostWrites.altTick := by
  obtain ⟨hr, hc⟩ := ht
  obtain ⟨d, hw⟩ := h.afterHostWrites
  have hcmd : commandStep s.turn.cmd s.afterHostWrites = .next s.afterHostWrites := by
    rcases commandStep_cases s.turn.cmd s.afterHostWrites with ⟨-, e⟩ | ⟨-, -, e⟩ | ⟨w, hw, h0, h1, -⟩
    · rw [e, sequencerStep_of_decode (decode_idleWord hw.idle)]
      rfl
    · rw [e]
      exact startWhileAnOperationRunsIsIgnored _ (.inr ⟨hw.real, by simp [hw.alt]⟩)
    · simp [hw, h0, h1] at hc
  rw [step_of_no_reset h.legal hr, hcmd]
  rfl

/-- The step of an accepted START in an ALT_REAL build: the operation is handed over, and the alternate backend has its
first step (log 12). -/
theorem step_of_start_real {kl : KeyLen} {rk : Nat → Block} {inp : Block} (hl : placeLegal s.build.place = true)
    (hr : s.turn.reset = false) (hc : s.turn.cmd = some (encode .start)) (hp : s.ph = .idle)
    (hb : s.build.backend = .altReal) (ha : s.alt = none) (hready : s.afterHostWrites.Ready kl rk inp) :
    ∃ (v : State) (d : Nat), step s = .next v.altTick ∧
      v.InFlight (.handedOver kl ((List.range (keyLenRounds kl + 1)).map rk) inp d) ∧
      v.mem = s.afterHostWrites.mem ∧ v.build = s.build ∧ v.host = s.host.tail := by
  have hpw : s.afterHostWrites.ph = .idle := afterHostWrites_ph.trans hp
  have hbw := afterHostWrites_build (s := s)
  have hstart := exec_start_of_ready_real hpw (by rwa [hbw]) (afterHostWrites_alt_none ha) hready
  have hstep := (stepRunsAnAcceptedStart s hl hr hc hp).2
  rw [hstart] at hstep
  exact ⟨_, _, hstep, ⟨hbw ▸ hl, hpw, hbw ▸ hb, rfl, rfl⟩, rfl, hbw, afterHostWrites_host⟩

/-! ### Beside an idle host -/

/-- With nothing left in the host's list, a step is the alternate backend's alone. -/
theorem State.InFlight.step_of_idle_host (h : s.InFlight op) (hh : s.host = []) : Machine.step s = .next s.altTick := by
  have hturn : s.turn = {} := by rw [State.turn, hh]; rfl
  have hdrop : s.dropTurn = s := by simp only [State.dropTurn, hh, List.tail_nil]; rw [← hh]
  rw [h.step (hturn ▸ ⟨rfl, .inl rfl⟩), afterHostWrites_of_no_writes (by rw [hturn]), hdrop]

/-- The success (R193 a). -/
theorem settleAlt_some (b : Block) :
    s.settleAlt (some b) = { s with alt := none, mem := memWriteBlock s.mem (s.locate .out 0) b, result := .ok } := rfl

/-- The failure (R193 b). -/
theorem settleAlt_none : s.settleAlt none = { s with alt := none, result := .featureUnsupported } := rfl

theorem settleAlt_alt {o : Option Block} : (s.settleAlt o).alt = none := by
  cases o <;> rfl

/-- The end of an operation does not depend on the counts it was held with. -/
theorem settleAlt_setAlt (a : Option AltOp) (o : Option Block) : (s.setAlt a).settleAlt o = s.settleAlt o := by
  cases o <;> rfl

theorem State.InFlight.tick_of_idle_host (h : s.InFlight op) (hclean : op.dirty = false) (hh : s.host = []) :
    Machine.step s = .next (s.tickAlt op) := by
  simpa [State.altTick, h.alt, hclean] using h.step_of_idle_host hh

/-- An operation whose outcome is fixed counts down beside an idle host, with `RESULT` and the storage at rest, and then
ends in that outcome. -/
theorem State.InFlight.run_to_end (h : s.InFlight op) (hclean : op.dirty = false) (hh : s.host = []) :
    Host.Core.run core (op.left + 1) s = .next (s.settleAlt op.plain) ∧
      ∀ m, m ≤ op.left → ∃ u, Host.Core.run core m s = .next u ∧ u.result = .none ∧ u.mem = s.mem := by
  have hstep := h.tick_of_idle_host hclean hh
  induction hn : op.left generalizing s op with
  | zero =>
    rw [State.tickAlt, if_pos hn] at hstep
    exact ⟨run_succ hstep 0, fun m hm => Nat.le_zero.1 hm ▸ ⟨s, rfl, h.result, rfl⟩⟩
  | succ n ih =>
    rw [State.tickAlt, if_neg (by omega)] at hstep
    have hu : (s.setAlt (some op.later)).InFlight op.later := { h with alt := rfl }
    obtain ⟨hend, hearlier⟩ := ih hu hclean hh (hu.tick_of_idle_host hclean hh) (by simp [hn])
    refine ⟨(run_succ hstep _).trans (hend.trans (congrArg _ (settleAlt_setAlt _ _))), fun m hm => ?_⟩
    cases m with
    | zero => exact ⟨s, rfl, h.result, rfl⟩
    | succ m => exact run_succ hstep m ▸ hearlier m (by omega)

/-- Settles O19: after the hand-over the outcome by ALT_OK stands, and the operation counts down to it. -/
theorem alternateOperationEndsInOneOfTwoWays : Obligations.AlternateOperationEndsInOneOfTwoWays := by
  intro s kl rk inp hl hhost hp hb ha hready
  have hturn := turn_of_host hhost
  have hwrites := afterHostWrites_of_startTurn hhost
  have hready' : s.afterHostWrites.Ready kl rk inp := hwrites ▸ ⟨hready.keyLen, hready.input, hready.schedule⟩
  obtain ⟨v, d, hstep, hv, hmem, hbuild, hvhost⟩ :=
    step_of_start_real hl (by rw [hturn]; rfl) (by rw [hturn]; rfl) hp hb ha hready'
  have hquiet : v.host = [] := by rw [hvhost, hhost]; rfl
  replace hmem : v.mem = s.mem := by rw [hmem, hwrites, State.dropTurn_mem]
  have hrun : ∀ n, Host.Core.run core (n + 1) s = Host.Core.run core (n + 1) v := fun n =>
    (run_succ hstep n).trans (run_succ (hv.step_of_idle_host hquiet) n).symm
  obtain ⟨hend, hearlier⟩ := hv.run_to_end rfl hquiet
  have hplain := altOutcome_of_keys kl rk inp
  refine ⟨_, _, Nat.le_add_left 1 _, (hrun _).trans hend, settleAlt_alt, fun m h1 hm => ?_, fun hok => ?_,
    fun hfail => ?_⟩
  · obtain ⟨k, rfl⟩ : ∃ k, m = k + 1 := ⟨m - 1, by omega⟩
    rw [hrun, ← hmem]
    exact hearlier _ (Nat.le_of_lt_succ hm)
  · rw [if_pos hok] at hplain
    have hout : v.locate .out 0 = s.locate .out 0 := locate_congr hbuild
    simp only [AltOp.handedOver, hplain, settleAlt_some, hmem, hout, true_and]
    exact ⟨fun i hi => locate_zero_add (s := s) .out i ▸ memRead_memWriteBlock_inside s.mem _ _ i hi,
      fun a ha => memRead_memWriteBlock_outside s.mem _ _ a ha⟩
  · rw [if_neg (by simp [hfail])] at hplain
    simp only [AltOp.handedOver, hplain, settleAlt_none, hmem, true_and]

/-! ### Beside any host that lets it run -/

/-- `m` steps after START an operation stands to the one step in which a failure is reported as R195 has it: a failure is as
far off as that step, and that step is `altFailSteps` steps after START, or past. -/
structure AltOp.Timed (op : AltOp) (m : Nat) : Prop where
  failTime : op.plain = none → op.failIn = some op.left
  clock : ∀ f, op.failIn = some f → f + m = Config.altFailSteps

theorem handedOver_timed (kl : KeyLen) (keys : List Block) (inp : Block) (d : Nat) :
    (AltOp.handedOver kl keys inp d).Timed 0 where
  failTime := handedOver_failIn
  clock := fun _ hf => (Option.some_injective _ hf).symm

/-- Drawing the outcome anew does not move the step of a failure (R195, U3). -/
theorem AltOp.Timed.redrawn (h : op.Timed m) (d : Nat) : (op.redrawn d).Timed m where
  failTime := redrawn_failIn
  clock := by rcases redrawn_cases op d with ⟨b, e⟩ | ⟨f, -, e⟩ <;> rw [e] <;> exact h.clock

theorem AltOp.Timed.later (h : op.Timed m) (hleft : op.left ≠ 0) : op.later.Timed (m + 1) where
  failTime := fun hp => by
    rw [later_failIn_iff, h.failTime hp, later_left, Nat.sub_add_cancel (Nat.pos_of_ne_zero hleft)]
  clock := fun f hf => by
    have := h.clock (f + 1) ((later_failIn_iff op f).1 hf)
    omega

/-- The operation has ended: in success, or in the failure, at the time of a failure and with the storage left as it was in
`mem`. -/
structure State.EndedAt (t : State) (mem : Memory) (m : Nat) : Prop where
  alt : t.alt = none
  outcome : t.result = .ok ∨ t.result = .featureUnsupported ∧ m = Config.altFailSteps ∧ t.mem = mem

theorem settleAlt_endedAt (h : op.Timed m) (hleft : op.left = 0) : (s.settleAlt op.plain).EndedAt s.mem m := by
  rcases settleAlt_eq (s := s) op.plain with ⟨b, -, e⟩ | ⟨hp, e⟩ <;> rw [e]
  · exact ⟨rfl, .inl rfl⟩
  · have hclock := h.clock op.left (h.failTime hp)
    exact ⟨rfl, .inr ⟨rfl, by omega, rfl⟩⟩

/-- A step of the alternate backend: the operation ends, or it goes on with its mark cleared and, where the host had not
set it, is one step nearer its end. -/
theorem State.InFlight.altTick (h : s.InFlight op) (ht : op.Timed m) :
    s.altTick.EndedAt s.mem m ∨
      ∃ op', s.altTick.InFlight op' ∧ op'.dirty = false ∧ op'.Timed (m + 1) ∧
        (op.dirty = false → op'.left < op.left) := by
  rcases altTick_cases s with ⟨ha, -⟩ | ⟨op', ho, hd, e⟩ | ⟨op', ho, hd, e⟩
  · simp [h.alt] at ha
  all_goals
    obtain rfl : op = op' := Option.some_injective _ (h.alt.symm.trans ho)
    rw [e]
  · rcases tickAlt_cases (s := s) op with ⟨hleft, e⟩ | ⟨hleft, e⟩ <;> rw [e]
    · exact .inl (settleAlt_endedAt ht hleft)
    · exact .inr ⟨op.later, { h with alt := rfl }, hd, ht.later hleft, fun _ => by simp; omega⟩
  · rcases tickAlt_cases (s := s.countDraw) (op.redrawn s.draws) with ⟨hleft, e⟩ | ⟨hleft, e⟩ <;> rw [e]
    · exact .inl (settleAlt_endedAt (s := s.countDraw) (ht.redrawn s.draws) hleft)
    · have hclean : (op.redrawn s.draws).dirty = false := by
        rcases redrawn_cases op s.draws with ⟨b, e⟩ | ⟨f, -, e⟩ <;> rw [e]
      exact .inr ⟨_, { h with alt := rfl }, hclean, (ht.redrawn s.draws).later hleft, fun hc => by simp [hd] at hc⟩

/-- From `s` on, `m` steps after START, the operation ends after finitely many steps, and in time. -/
def State.EndsInTime (s : State) (m : Nat) : Prop :=
  ∃ n u t, Host.Core.run core n s = .next u ∧ Host.Core.run core (n + 1) s = .next t ∧ t.alt = none ∧
    (∀ k, 1 ≤ k → k ≤ n → ∃ v, Host.Core.run core k s = .next v ∧ v.alt.isSome = true ∧ v.result = .none) ∧
    (t.result = .ok ∨ t.result = .featureUnsupported ∧ n + m = Config.altFailSteps ∧ t.mem = u.afterHostWrites.mem)

theorem endsInTime_of_ended (h : step s = .next t) (ht : t.EndedAt s.afterHostWrites.mem m) : s.EndsInTime m :=
  ⟨0, s, t, rfl, run_succ h 0, ht.alt, fun k h1 h0 => by omega, by simpa using ht.outcome⟩

theorem endsInTime_of_step (h : step s = .next t) (hf : t.InFlight op) (ht : t.EndsInTime (m + 1)) : s.EndsInTime m := by
  obtain ⟨n, u, w, hu, hw, halt, hbefore, hend⟩ := ht
  refine ⟨n + 1, u, w, (run_succ h n).trans hu, (run_succ h _).trans hw, halt, fun k h1 hk => ?_, ?_⟩
  · obtain ⟨k, rfl⟩ : ∃ j, k = j + 1 := ⟨k - 1, by omega⟩
    rw [run_succ h]
    by_cases h0 : k = 0
    · exact ⟨t, h0 ▸ rfl, by simp [hf.alt], hf.result⟩
    · exact hbefore k (by omega) (by omega)
  · rwa [Nat.add_right_comm, Nat.add_assoc]

/-- One step of the argument: the step of the alternate backend on `v`, and the rest where the operation goes on. -/
theorem endsInTime_of_altTick (hstep : step s = .next v.altTick) (hmem : v.mem = s.afterHostWrites.mem)
    (hv : v.InFlight op) (ht : op.Timed m)
    (hrest : ∀ op', v.altTick.InFlight op' → op'.dirty = false → op'.Timed (m + 1) →
      (op.dirty = false → op'.left < op.left) → v.altTick.EndsInTime (m + 1)) : s.EndsInTime m := by
  rcases hv.altTick ht with hend | ⟨op', hf, hd, ht', hless⟩
  · exact endsInTime_of_ended hstep (hmem ▸ hend)
  · exact endsInTime_of_step hstep hf (hrest op' hf hd ht' hless)

/-- Beside an idle host the count to the end goes down in every step. -/
theorem State.InFlight.endsInTime_of_idle_host (h : s.InFlight op) (hclean : op.dirty = false) (ht : op.Timed m)
    (hh : s.host = []) : s.EndsInTime m := by
  induction hn : op.left using Nat.strong_induction_on generalizing s op m with
  | _ n ih =>
    have hw : s.afterHostWrites.mem = s.mem := by
      rw [afterHostWrites_of_no_writes (by rw [State.turn, hh]; rfl), State.dropTurn_mem]
    exact endsInTime_of_altTick (h.step_of_idle_host hh) hw.symm h ht fun op' hf hd ht' hless =>
      ih _ (hn ▸ hless hclean) hf hd ht' (altTick_host.trans hh) rfl

/-- An operation in flight ends in time: the host has finitely many turns, and after the last the count to the end is not
drawn anew. -/
theorem State.InFlight.endsInTime (h : s.InFlight op) (hclean : op.dirty = false) (ht : op.Timed m)
    (hh : ∀ t ∈ s.host, t.letsRun) : s.EndsInTime m := by
  induction hs : s.host generalizing s op m with
  | nil => exact h.endsInTime_of_idle_host hclean ht hs
  | cons first turns ih =>
    obtain ⟨d, hw⟩ := h.afterHostWrites
    refine endsInTime_of_altTick (h.step (turn_letsRun hh)) rfl hw ⟨ht.failTime, ht.clock⟩ fun op' hf hd ht' _ => ?_
    have hhost : s.afterHostWrites.altTick.host = turns := by rw [altTick_host, afterHostWrites_host, hs, List.tail_cons]
    exact ih hf hd ht' (fun t hmem => hh t (by simp [hs, hhost ▸ hmem])) hhost

/-- Settles O20: the operation handed over is timed from START on, and every step keeps it so. -/
theorem alternateFailuresTakeTheSameTime : Obligations.AlternateFailuresTakeTheSameTime := by
  intro s first turns kl rk inp hl hhost hc hturns hp hb ha hready
  have hturn := turn_of_host hhost
  obtain ⟨hr, -⟩ := hturns first (by simp)
  obtain ⟨v, d, hstep, hv, hmem, -, hvhost⟩ := step_of_start_real hl (hturn ▸ hr) (hturn ▸ hc) hp hb ha hready
  have hend : s.EndsInTime 0 :=
    endsInTime_of_altTick hstep hmem hv (handedOver_timed ..) fun op' hf hd ht _ =>
      hf.endsInTime hd ht fun t ht' => hturns t (by
        rw [altTick_host, hvhost, hhost] at ht'
        exact List.mem_cons_of_mem _ ht')
  exact hend

end Sys2Proof.Machine

/-! # Proofs: reset and hazards (70_reset_and_hazards.md)

What a step with reset comes to, and where an operation stops on a byte that nothing has written since power-on (R250). An
LDS stops as its read of `IN` does; a START as the first of its reads that stops, in their order `KL`, `IN`, and in an
ALT_REAL build the schedule in use. -/

namespace Sys2Proof.Machine

variable {s : State}

/-! ## Reset -/

/-- Reset wins: neither the command nor the micro-operation has a part in the step (R240). -/
theorem step_of_reset (hl : placeLegal s.build.place = true) (hr : s.turn.reset = true) :
    step s = .next s.afterHostWrites.afterReset := by
  rw [step, if_pos hl, if_pos hr]

/-- Settles O10: `afterReset` sets the registers, and the build and the storage are as the host's writes left them. -/
theorem resetWinsOverEverything : Obligations.ResetWinsOverEverything := by
  intro s hl hr
  refine ⟨_, step_of_reset hl hr, rfl, rfl, rfl, rfl, rfl, rfl, afterHostWrites_build, rfl, rfl, fun hw => ?_⟩
  rw [State.afterReset_mem, afterHostWrites_of_no_writes hw, State.dropTurn_mem]

/-! ## Reads of a byte that nothing has written -/

/-- A byte of `IN` without a value leaves the input block without one. -/
theorem readBlock_inp_of_unwritten {i : Nat} (hi : i < 16) (h : memRead s.mem (s.locate .inp i) = none) :
    s.readBlock .inp 0 = .error (.neverWritten .inp) :=
  readBlock_of_unwritten (Nat.le_refl 16) hi ((Nat.zero_add i).symm ▸ h)

theorem readKl_of_unwritten (h : memRead s.mem (s.locate .kl 0) = none) : s.readKl = .error (.neverWritten .kl) := by
  simp only [State.readKl, h]

/-- The fourth code of `KL` names no key length (R85). -/
theorem readKl_of_reserved {v : Byte} (hv : memRead s.mem (s.locate .kl 0) = some v) (h3 : v.toNat % 4 = 3) :
    s.readKl = .error .reservedKeyLength := by
  have hcode : v.extractLsb' 0 2 = 3#2 := BitVec.eq_of_toNat_eq (by simpa using h3)
  have hnone : keyLenOf 3#2 = none := rfl
  simp only [State.readKl, hv, hcode, hnone]

theorem exists_keyLenCode_of_lt {n : Nat} (h : n < 3) : ∃ kl, n = (keyLenCode kl).toNat := by
  match n, h with
  | 0, _ => exact ⟨.k128, rfl⟩
  | 1, _ => exact ⟨.k192, rfl⟩
  | 2, _ => exact ⟨.k256, rfl⟩

/-- A schedule that is read has each of its round keys read. -/
theorem readBlock_of_readSchedule {n k : Nat} {keys : List Block} (h : s.readSchedule n = .ok keys) (hk : k < n) :
    ∃ key, s.readBlock .rk (roundKeyIndex k) = .ok key := by
  induction n generalizing keys with
  | zero => cases hk
  | succ n ih =>
    unfold State.readSchedule at h
    split at h
    case h_1 => cases h
    case h_2 hread =>
      rcases Nat.lt_succ_iff_lt_or_eq.1 hk with hlt | rfl
      · exact ih hread hlt
      · split at h
        case h_1 key hkey => exact ⟨key, hkey⟩
        case h_2 => cases h

/-- A byte of the schedule of `n` round keys without a value leaves that schedule without one. -/
theorem readSchedule_of_unwritten {n j : Nat} (hn : n ≤ 15) (hj : j < 16 * n)
    (h : memRead s.mem (s.locate .rk j) = none) : s.readSchedule n = .error (.neverWritten .rk) := by
  cases hread : s.readSchedule n with
  | error e =>
    obtain ⟨k, hk, he⟩ := readSchedule_error hread
    rw [readBlock_error (roundKeyIndex_fits (by omega)) he]
  | ok keys =>
    have hk : j / 16 < n := Nat.div_lt_of_lt_mul hj
    obtain ⟨key, hkey⟩ := readBlock_of_readSchedule hread hk
    have hnone : s.readBlock .rk (roundKeyIndex (j / 16)) = .error (.neverWritten .rk) :=
      readBlock_of_unwritten (roundKeyIndex_fits (by omega)) (Nat.mod_lt j (by decide))
        (by rwa [roundKeyIndex, Nat.div_add_mod])
    cases hkey.symm.trans hnone

/-! ## LDS and START -/

theorem exec_lds_of_readBlock_error {e : Fault} (h : s.readBlock .inp 0 = .error e) : exec .lds s = .fault e :=
  onValue_fault_iff.2 (.inl (loadMatrix_error_iff.2 h))

/-- Settles O22: LDS stops as its read of `IN` does. -/
theorem ldsOfAnUnwrittenInputFaults : Obligations.LdsOfAnUnwrittenInputFaults :=
  fun _ _ hi h => exec_lds_of_readBlock_error (readBlock_inp_of_unwritten hi h)

theorem beginSoft_fault_iff {e : Fault} :
    s.beginSoft = .fault e ↔ s.readKl = .error e ∨ ∃ kl, s.readKl = .ok kl ∧ s.readBlock .inp 0 = .error e := by
  simp [State.beginSoft, onValue_fault_iff, loadMatrix_error_iff]

theorem handToAlternate_fault_iff {e : Fault} (ha : s.alt = none) :
    s.handToAlternate = .fault e ↔
      s.readKl = .error e ∨ ∃ kl, s.readKl = .ok kl ∧
        (s.readBlock .inp 0 = .error e ∨ ∃ inp, s.readBlock .inp 0 = .ok inp ∧
          s.readSchedule (keyLenRounds kl + 1) = .error e) := by
  simp [State.handToAlternate, ha, onValue_fault_iff]

section Start

variable {e : Fault} {kl : KeyLen} (hp : s.ph = .idle)
  (hb : s.build.backend = .soft ∨ s.build.backend = .altReal ∧ s.alt = none)
include hp hb

theorem exec_start_of_readKl_error (h : s.readKl = .error e) : exec .start s = .fault e := by
  rcases hb with hb | ⟨hb, ha⟩
  · exact (exec_start_soft hp hb).trans (beginSoft_fault_iff.2 (.inl h))
  · exact (exec_start_real hp hb).trans ((handToAlternate_fault_iff ha).2 (.inl h))

theorem exec_start_of_readInput_error (hkl : s.readKl = .ok kl) (h : s.readBlock .inp 0 = .error e) :
    exec .start s = .fault e := by
  rcases hb with hb | ⟨hb, ha⟩
  · exact (exec_start_soft hp hb).trans (beginSoft_fault_iff.2 (.inr ⟨kl, hkl, h⟩))
  · exact (exec_start_real hp hb).trans ((handToAlternate_fault_iff ha).2 (.inr ⟨kl, hkl, .inl h⟩))

end Start

theorem exec_start_of_readSchedule_error {e : Fault} {kl : KeyLen} {inp : Block} (hp : s.ph = .idle)
    (hb : s.build.backend = .altReal) (ha : s.alt = none) (hkl : s.readKl = .ok kl)
    (hinp : s.readBlock .inp 0 = .ok inp) (h : s.readSchedule (keyLenRounds kl + 1) = .error e) :
    exec .start s = .fault e :=
  (exec_start_real hp hb).trans ((handToAlternate_fault_iff ha).2 (.inr ⟨kl, hkl, .inr ⟨inp, hinp, h⟩⟩))

/-- Settles O13: a clause for each of the reads of START, with the reads before it in order. -/
theorem startOutsideItsContractFaults : Obligations.StartOutsideItsContractFaults := by
  intro s hp hb
  refine ⟨fun hkl => ?unwrittenKl, fun v hv h3 => ?reservedKl, fun v i hv h3 hi hnone => ?unwrittenInput,
    fun v kl j hreal hv hkl hinp hj hnone => ?unwrittenSchedule⟩
  case unwrittenKl => exact exec_start_of_readKl_error hp hb (readKl_of_unwritten hkl)
  case reservedKl => exact exec_start_of_readKl_error hp hb (readKl_of_reserved hv h3)
  case unwrittenInput =>
    obtain ⟨kl, hkl⟩ := exists_keyLenCode_of_lt (n := v.toNat % 4) (by omega)
    exact exec_start_of_readInput_error hp hb (readKl_of_byte hv hkl) (readBlock_inp_of_unwritten hi hnone)
  case unwrittenSchedule =>
    obtain ⟨-, ha⟩ := hb.resolve_left (by simp [hreal])
    obtain ⟨inp, hread⟩ := readBlock_of_written (s := s) (sp := .inp) (i := 0) (Nat.le_refl 16)
      fun i hi => (Nat.zero_add i).symm ▸ hinp i hi
    exact exec_start_of_readSchedule_error hp hreal ha (readKl_of_byte hv hkl) hread
      (readSchedule_of_unwritten (Nat.succ_le_succ (keyLenRounds_le kl)) hj hnone)

end Sys2Proof.Machine

/-! # Proofs: a byte that the host reads before it is written (93_implementation_defined.md U10) -/

namespace Sys2Proof.Machine

/-- Settles O55: where the storage holds no byte, the host's read falls back on the free value. -/
theorem anUnwrittenOutputReadsAsAnyValue : Obligations.AnUnwrittenOutputReadsAsAnyValue := by
  intro s i hnone
  rw [State.hostReadOut, hnone, Option.getD_none]

end Sys2Proof.Machine
